-- ==== Sys2Proof/Word.lean ====
section
/-! DEFINITION. The widths of the block (spec/00_scope.md R9, R12): bytes, millisecond stamps, and the counters. All
values are unsigned (R12). -/

namespace Sys2Proof

/-- A byte: 8 bits, an unsigned value 0 to 255 (R12). -/
abbrev Byte := BitVec 8

/-- A millisecond stamp, `TIME_W` = 32 bits (R9). -/
abbrev Stamp := BitVec 32

/-- The synchronization progress, `PROG_W` = 8 bits (R9). -/
abbrev Progress := BitVec 8

/-- The remaining payload byte count, `REM_W` = 18 bits (R9). -/
abbrev Remaining := BitVec 18

/-- The write position, `WP_W` = 17 bits (R9). -/
abbrev WritePos := BitVec 17

/-- The pixel index of a `Set`, `IDX_W` = 16 bits (R9). -/
abbrev PixelIndex := BitVec 16

/-- The constant of the header checksum, `CHK_CONST` (R7). -/
def checksumConst : Byte := 0x55#8

/-- The liveness interval in milliseconds, `ACK_INTERVAL_MS` (R7). -/
def ackIntervalMs : Nat := 1000

/-- Bytes per pixel, `BPP` (R7). -/
def bytesPerPixel : Nat := 3

/-- Header bytes after the magic sequence, `HDR_FIELDS` (R7). -/
def headerFields : Nat := 3

end Sys2Proof
end

