-- ==== Sys2Proof/Config.lean ====
section
/-! DEFINITION. What an instance fixes (spec/00_scope.md R6, R8) and what the environment supplies in each step
(spec/00_scope.md R15). -/

namespace Sys2Proof

/-- The parameters of an instance, the record `cfg` of R15: constants that no operation writes (R34). -/
structure Config where
  /-- `N`, the strip length (R6). -/
  stripLen : Nat
  /-- `MAGIC`, the magic sequence, first element index 0 (R6, R13). -/
  magic : List Byte
  /-- `TIMEOUT_MS`, the inactivity threshold in milliseconds; 0 disables blanking (R6). -/
  timeoutMs : Stamp
  /-- `REVERSED`, the output index direction (R6). -/
  reversed : Bool
  /-- `ACK_BYTES`, the liveness payload; OPEN in the spec (R6). -/
  ackBytes : List Byte
  /-- `FLUSH_ON_COMMIT` (R8). -/
  flushOnCommit : Bool
  /-- `WDG_NESTED` (R8). -/
  wdgNested : Bool
  /-- `ACK_RESET_ON_BYTE` (R8). -/
  ackResetOnByte : Bool
  deriving DecidableEq, Repr

/-- The parameters that `State.reset` holds: the spec's defaults (R8, R92, the conventions of 95_test_vectors.md).
DESIGN CHOICE, unsafe: `stripLen` and `ackBytes`, for which the spec has no default (notes/assumptions/2.md). -/
def Config.default : Config where
  stripLen := 2
  magic := [0x41#8, 0x64#8, 0x61#8]
  timeoutMs := 0#32
  reversed := false
  ackBytes := []
  flushOnCommit := false
  wdgNested := true
  ackResetOnByte := false

/-- What the environment supplies at one clock edge: the level of `rst` (R35), the bytes that have reached the tail of
the transport's queue since the last edge (R70) and the value of `time_ms` (R98). -/
structure Slot where
  rst : Bool
  arrivals : List Byte
  time : Stamp
  deriving DecidableEq, Repr, Inhabited

/-- A FREE VALUE: the input of slot number `n` where State's list of inputs has run out. Nothing is known of it, so a
statement about a step holds whatever the environment does (R15, D16; DESIGN CHOICE, safe: notes/assumptions/4.md). -/
opaque Config.freeSlot : Nat → Slot

/-- The two contents that the sink's arrays hold before the first command (R62). -/
inductive PowerOn where
  /-- What the buffer holds. -/
  | buf
  /-- What the LEDs display. -/
  | shown
  deriving DecidableEq, Repr

/-- A FREE VALUE: the byte at an address of the pixel space before the first command. The two arrays "are unspecified at
reset of the block", and "a model treats them as arbitrary" (R62, U10); nothing is known of a byte of either, nor of one
from the other (DESIGN CHOICE, safe: notes/assumptions/5.md). -/
opaque Config.powerOnByte : PowerOn → Nat → Byte

end Sys2Proof
end

