-- ==== Sys2Proof/Syntax.lean ====
section
/-! DEFINITION. The sixteen operations of one step (spec/30_encoding.md R104), the counterpart of an instruction set,
and the five output commands (spec/00_scope.md R14). -/

namespace Sys2Proof

/-- One constructor for each row of spec/opcode_table.json. An operation of the formats BS and BP carries its one
operand, the input byte `b`; one of the format ID has none (R103). -/
inductive Instr where
  /-- SYNC.HIT: magic byte matched (R121). -/
  | syncHit (b : Byte)
  /-- SYNC.MISS: magic byte not matched (R122). -/
  | syncMiss (b : Byte)
  /-- HDR.HI: capture the count high byte (R123). -/
  | hdrHi (b : Byte)
  /-- HDR.LO: capture the count low byte (R124). -/
  | hdrLo (b : Byte)
  /-- HDR.OK: checksum byte correct, frame accepted (R125). -/
  | hdrOk (b : Byte)
  /-- HDR.BAD: checksum byte wrong, header discarded (R126). -/
  | hdrBad (b : Byte)
  /-- PAY.R: store the red byte (R141). -/
  | payR (b : Byte)
  /-- PAY.G: store the green byte (R142). -/
  | payG (b : Byte)
  /-- PAY.B: store the blue byte, write the pixel, more payload follows (R143). -/
  | payB (b : Byte)
  /-- PAY.B.LAST: store the blue byte, write the pixel, end the frame (R144). -/
  | payBLast (b : Byte)
  /-- PAY.SKIP: discard an excess byte, more payload follows (R145). -/
  | paySkip (b : Byte)
  /-- PAY.SKIP.LAST: discard the last excess byte, end the frame (R147). -/
  | paySkipLast (b : Byte)
  /-- WDG.IDLE: nothing due (R161). -/
  | wdgIdle
  /-- WDG.BLANK: blanking due, acknowledgment not due (R163). -/
  | wdgBlank
  /-- WDG.ACK: acknowledgment due, blanking not due (R162). -/
  | wdgAck
  /-- WDG.ACKBLANK: acknowledgment due and blanking due (R164). -/
  | wdgAckblank
  deriving DecidableEq, Repr

/-- The input byte an operation carries (R103). -/
def Instr.operand : Instr → Option Byte
  | .syncHit b => some b
  | .syncMiss b => some b
  | .hdrHi b => some b
  | .hdrLo b => some b
  | .hdrOk b => some b
  | .hdrBad b => some b
  | .payR b => some b
  | .payG b => some b
  | .payB b => some b
  | .payBLast b => some b
  | .paySkip b => some b
  | .paySkipLast b => some b
  | .wdgIdle => none
  | .wdgBlank => none
  | .wdgAck => none
  | .wdgAckblank => none

/-- The commands of a step's output list (R14). `ack` and `flush` go to the transport, the others to the sink. -/
inductive Command where
  /-- Send `ACK_BYTES` (R72). -/
  | ack
  /-- Clear the sink's buffer without latching (R63). -/
  | clear
  /-- Write the colour `(r, g, b)` to buffer position `idx` (R64). -/
  | set (idx : PixelIndex) (r g b : Byte)
  /-- Latch: push the buffer to the physical output (R65). -/
  | commit
  /-- Discard every byte the transport holds buffered (R73). -/
  | flush
  deriving DecidableEq, Repr

/-- The place of a command's kind in the fixed order `Ack`, `Clear`, `Set`, `Commit`, `Flush` (R36). -/
def Command.rank : Command → Nat
  | .ack => 0
  | .clear => 1
  | .set _ _ _ _ => 2
  | .commit => 3
  | .flush => 4

end Sys2Proof
end

