-- ==== Sys2Proof/WellFormed.lean ====
section
/-! DEFINITION. Which parameters are legal (spec/00_scope.md R6, spec/70_reset_and_hazards.md R214) and which
operations an instance can execute at all. -/

namespace Sys2Proof

/-- The values of a byte sequence are pairwise distinct (R6: "the values are pairwise distinct"). -/
def distinctBytes : List Byte → Bool
  | [] => true
  | b :: bs => !bs.contains b && distinctBytes bs

/-- The bounds within which every rule of the spec defines a behaviour: `1 <= N <= 65536` and `1 <= L <= 253` (R6, D9).
Repeated magic values are not excluded here: "every rule still defines a behaviour" (R214; notes/assumptions/8.md). -/
def Config.runnable (c : Config) : Bool :=
  decide (1 ≤ c.stripLen) && decide (c.stripLen ≤ 65536) &&
    decide (1 ≤ c.magic.length) && decide (c.magic.length ≤ 253)

/-- The legal parameters (R6, R214 item 1): the bounds, and pairwise distinct magic values. -/
def Config.wf (c : Config) : Bool := c.runnable && distinctBytes c.magic

/-- Whether a step under the parameters `c` can select the operation, from some state and input (R100, R104): a match
needs a byte of the magic sequence, a miss a byte that some element differs from, a blanking operation an enabled
timeout, and WDG.BLANK a check that is not nested (R163). -/
def Instr.wf (c : Config) : Instr → Bool
  | .syncHit b => c.magic.contains b
  | .syncMiss b => c.magic.any (· != b)
  | .hdrHi _ => true
  | .hdrLo _ => true
  | .hdrOk _ => true
  | .hdrBad _ => true
  | .payR _ => true
  | .payG _ => true
  | .payB _ => true
  | .payBLast _ => true
  | .paySkip _ => true
  | .paySkipLast _ => true
  | .wdgIdle => true
  | .wdgBlank => !c.wdgNested && c.timeoutMs != 0#32
  | .wdgAck => true
  | .wdgAckblank => c.timeoutMs != 0#32

end Sys2Proof
end

