-- ==== Sys2Proof/Decode.lean ====
section
/-! DEFINITION. The dispatch word (spec/30_encoding.md R100), the decoder that selects one operation from it (R102,
R104), the opcode table's match and mask (R104, spec/opcode_table.json), and the encoder written from that table. An
instruction is written as bytes: the dispatch word first, then, when `V = 1`, the input byte `b`, the only operand any
operation has (R103; DESIGN CHOICE, safe: notes/assumptions/7.md). -/

namespace Sys2Proof

/-- The eight bits of the dispatch word by name, `DW = V, M, P[1], P[0], E, Z, A, T` with `V` bit 7 (R100). -/
structure DispatchBits where
  v : Bool
  m : Bool
  p1 : Bool
  p0 : Bool
  e : Bool
  z : Bool
  a : Bool
  t : Bool
  deriving DecidableEq, Repr

/-- The dispatch word with these bits (R100). -/
def wordOfBits (d : DispatchBits) : Byte :=
  BitVec.ofNat 8 (128 * d.v.toNat + 64 * d.m.toNat + 32 * d.p1.toNat + 16 * d.p0.toNat +
    8 * d.e.toNat + 4 * d.z.toNat + 2 * d.a.toNat + d.t.toNat)

/-- The bits of a dispatch word (R100). -/
def bitsOfWord (w : Byte) : DispatchBits where
  v := w.getLsbD 7
  m := w.getLsbD 6
  p1 := w.getLsbD 5
  p0 := w.getLsbD 4
  e := w.getLsbD 3
  z := w.getLsbD 2
  a := w.getLsbD 1
  t := w.getLsbD 0

/-- The operation the bits select (R102): for `V = 1` by `M` and `P`, split by `E` where `M = 0` and `P` is 0 or 3 and
by `Z` where `M = 1` and `P` is 2 or 3; for `V = 0` by `A` and `T`. -/
def decodeBits (d : DispatchBits) (b : Byte) : Instr :=
  match d.v, d.m, d.p1, d.p0 with
  | true, false, false, false => if d.e then .syncHit b else .syncMiss b
  | true, false, false, true => .hdrHi b
  | true, false, true, false => .hdrLo b
  | true, false, true, true => if d.e then .hdrOk b else .hdrBad b
  | true, true, false, false => .payR b
  | true, true, false, true => .payG b
  | true, true, true, false => if d.z then .payBLast b else .payB b
  | true, true, true, true => if d.z then .paySkipLast b else .paySkip b
  | false, _, _, _ =>
    match d.a, d.t with
    | false, false => .wdgIdle
    | false, true => .wdgBlank
    | true, false => .wdgAck
    | true, true => .wdgAckblank

/-- The operation a dispatch word selects, with the step's input byte as its operand. Every word selects one: "there
is no illegal-operation case" (R102). -/
def decodeWord (w b : Byte) : Instr := decodeBits (bitsOfWord w) b

/-- Why a list of bytes is no instruction. -/
inductive DecodeError where
  /-- There is no dispatch word. -/
  | noDispatchWord
  /-- The word has `V = 1`, and the input byte it needs is not there. -/
  | noInputByte
  deriving DecidableEq, Repr

/-- Reads one instruction from the front of a list of bytes, and gives the bytes that follow it. -/
def decode : List Byte → Except DecodeError (Instr × List Byte)
  | [] => .error .noDispatchWord
  | w :: rest =>
    match (bitsOfWord w).v, rest with
    | false, _ => .ok (decodeWord w 0#8, rest)
    | true, [] => .error .noInputByte
    | true, b :: rest' => .ok (decodeWord w b, rest')

/-- A row of spec/opcode_table.json: selected by `DW` when `DW AND mask = pattern` (R104; the table calls the pattern
"match"). -/
structure OpRow where
  mnemonic : String
  pattern : Byte
  mask : Byte
  deriving DecidableEq, Repr

/-- Whether a dispatch word selects the row (R104). -/
def OpRow.selects (r : OpRow) (w : Byte) : Bool := w &&& r.mask == r.pattern

/-- The row of an operation (R104). -/
def Instr.row : Instr → OpRow
  | .syncHit _ => ⟨"SYNC.HIT", 0x88#8, 0xF8#8⟩
  | .syncMiss _ => ⟨"SYNC.MISS", 0x80#8, 0xF8#8⟩
  | .hdrHi _ => ⟨"HDR.HI", 0x90#8, 0xF0#8⟩
  | .hdrLo _ => ⟨"HDR.LO", 0xA0#8, 0xF0#8⟩
  | .hdrOk _ => ⟨"HDR.OK", 0xB8#8, 0xF8#8⟩
  | .hdrBad _ => ⟨"HDR.BAD", 0xB0#8, 0xF8#8⟩
  | .payR _ => ⟨"PAY.R", 0xC0#8, 0xF0#8⟩
  | .payG _ => ⟨"PAY.G", 0xD0#8, 0xF0#8⟩
  | .payB _ => ⟨"PAY.B", 0xE0#8, 0xF4#8⟩
  | .payBLast _ => ⟨"PAY.B.LAST", 0xE4#8, 0xF4#8⟩
  | .paySkip _ => ⟨"PAY.SKIP", 0xF0#8, 0xF4#8⟩
  | .paySkipLast _ => ⟨"PAY.SKIP.LAST", 0xF4#8, 0xF4#8⟩
  | .wdgIdle => ⟨"WDG.IDLE", 0x00#8, 0x83#8⟩
  | .wdgBlank => ⟨"WDG.BLANK", 0x01#8, 0x83#8⟩
  | .wdgAck => ⟨"WDG.ACK", 0x02#8, 0x83#8⟩
  | .wdgAckblank => ⟨"WDG.ACKBLANK", 0x03#8, 0x83#8⟩

/-- The sixteen rows of R104, in the table's order. -/
def opcodeTable : List OpRow :=
  [Instr.syncHit 0, Instr.syncMiss 0, Instr.hdrHi 0, Instr.hdrLo 0, Instr.hdrOk 0, Instr.hdrBad 0, Instr.payR 0,
    Instr.payG 0, Instr.payB 0, Instr.payBLast 0, Instr.paySkip 0, Instr.paySkipLast 0, Instr.wdgIdle,
    Instr.wdgBlank, Instr.wdgAck, Instr.wdgAckblank].map Instr.row

/-- The words of an instruction, with the bits of the dispatch word that its row does not test taken from `spare`. -/
def encodeWith (spare : Byte) (i : Instr) : List Byte :=
  (i.row.pattern ||| (spare &&& ~~~i.row.mask)) :: i.operand.toList

/-- The words of an instruction, untested bits 0. -/
def encode (i : Instr) : List Byte := encodeWith 0#8 i

/-- The instruction this decoder reads from a table word: bit 0 is the least significant bit of the dispatch word, and
the operand byte counts on from bit 8. Bits from `nbits` up are 0. -/
def decodeTableWord (nbits w : Nat) : Option Instr :=
  match decode [BitVec.ofNat 8 (w % 2 ^ nbits), BitVec.ofNat 8 (w % 2 ^ nbits / 256)] with
  | .ok (i, _) => some i
  | .error _ => none

end Sys2Proof
end

