-- ==== Sys2Proof/Machine/State.lean ====
section
/-! DEFINITION. The state of the machine (spec/10_state.md R20), with the reference models of the two receivers
(spec/20_memory.md R62, R70), the output ports (spec/10_state.md R35) and the inputs of the steps to come, all plain
data, and the state after reset (spec/10_state.md R38). -/

namespace Sys2Proof.Machine

/-- The two modes of the Session State; exactly one is active (R21). -/
inductive Mode where
  /-- 0: the next byte goes to the frame synchronizer and header parser. -/
  | sync
  /-- 1: the next byte goes to the payload consumer. -/
  | payload
  deriving DecidableEq, Repr

/-- The 3-byte in-progress pixel accumulator `acc` (R28, R13). -/
structure Acc where
  /-- `acc[0]` -/
  red : Byte
  /-- `acc[1]` -/
  green : Byte
  /-- `acc[2]` -/
  blue : Byte
  deriving DecidableEq, Repr

/-- Bytes of the pixel space that commands have written: cells with addresses strictly rising, the channels red, green,
blue of pixel `i` at `3 i`, `3 i + 1`, `3 i + 2` (notes/assumptions/5.md). -/
abbrev Memory := List Host.Cell

/-- An array of `N` pixels (R62). -/
structure Pixels where
  /-- The bytes that commands have written. -/
  cells : Memory
  /-- The content at every address that is not among them: free bytes (R62; notes/assumptions/5.md). -/
  before : PowerOn
  deriving DecidableEq, Repr

/-- The reference sink (R62): the buffer the commands write, and what the LEDs display. -/
structure Sink where
  buf : Pixels
  shown : Pixels
  deriving DecidableEq, Repr

/-- The reference transport (R70): the bytes that have arrived and have not been polled, head first, and all bytes the
block has sent. -/
structure Link where
  q : List Byte
  sent : List Byte
  deriving DecidableEq, Repr

/-- The machine. -/
structure State where
  /-- The parameters; no step writes them (R34; the model's own field, notes/assumptions/1.md). -/
  cfg : Config
  mode : Mode
  progress : Progress
  hi : Byte
  lo : Byte
  count : BitVec 16
  remaining : Remaining
  /-- `write_pos` (R26). -/
  writePos : WritePos
  chan : BitVec 2
  acc : Acc
  /-- `t_now` (R29). -/
  tNow : Stamp
  /-- `t_last_byte` (R30). -/
  tLastByte : Stamp
  /-- `t_last_ack` (R31). -/
  tLastAck : Stamp
  sink : Sink
  link : Link
  /-- The output list of the step (R15); during a step, the commands emitted so far. -/
  out : List Command
  /-- The port `rx_take` (R35). -/
  rxTake : Bool
  /-- The inputs of the steps to come, next first (the model's own field, notes/assumptions/4.md). -/
  script : List Slot
  /-- How many clock edges the machine has seen: it numbers the free inputs (the model's own field,
  notes/assumptions/4.md). -/
  slotNo : Nat
  deriving DecidableEq, Repr

/-- Why the machine stops with a fault: never. "No operation raises an exception, faults, halts or stalls" (R180), so
there is no constructor (safe: a fault cannot be answered). -/
inductive Fault : Type
  deriving DecidableEq, Repr

/-- Why the model gives a step no meaning. -/
inductive Refusal where
  /-- Raised by `exec` for an instruction that has no meaning yet (safe). No arm raises it. -/
  | notModelled (mnemonic : String)
  /-- Raised by `step` when the parameters lie outside the bounds of R6: N = 0, N > 65536, L = 0 or L > 253 (D9, U1,
  U7: such a configuration is refused; safe). -/
  | illegalConfig
  deriving DecidableEq, Repr

/-- `Reset(time0)` (R38, R210) for an instance with parameters `cfg`, in an environment that has done nothing yet:
each of the sink's arrays holds its own arbitrary content (R62), no byte is queued or sent (notes/assumptions/6.md), no
input scripted. -/
def State.resetWith (cfg : Config) (time0 : Stamp) : State where
  cfg := cfg
  mode := .sync
  progress := 0#8
  hi := 0#8
  lo := 0#8
  count := 0#16
  remaining := 0#18
  writePos := 0#17
  chan := 0#2
  acc := ⟨0#8, 0#8, 0#8⟩
  tNow := time0
  tLastByte := time0
  tLastAck := time0
  sink := ⟨⟨[], .buf⟩, ⟨[], .shown⟩⟩
  link := ⟨[], []⟩
  out := []
  rxTake := false
  script := []
  slotNo := 0

/-- The machine right after reset: `Reset(0)` with the default parameters (R38; `time0` = 0 and the parameters without
a default are the model's: notes/assumptions/2.md, 3.md). -/
def State.reset : State := State.resetWith Config.default 0#32

end Sys2Proof.Machine
end

