-- ==== Sys2Proof/Machine/Memory.lean ====
section
/-! DEFINITION. Reading and writing the pixel space (spec/20_memory.md R60 to R65): one byte, one pixel, all positions.
Only the sink's commands write it, and nothing in the block reads it (R60); the reads are for statements. -/

namespace Sys2Proof.Machine

/-- The canonical form: addresses strictly rising. (A byte that nothing has written is a free value, so no written byte
can be told equal to it, and a write always lists its byte: notes/assumptions/5.md.) -/
def Memory.wf : Memory → Bool
  | [] => true
  | [_] => true
  | x :: y :: m => decide (x.1 < y.1) && Memory.wf (y :: m)

/-- The byte written at an address, `none` if nothing has written it. -/
def Memory.listed : Memory → Nat → Option Byte
  | [], _ => none
  | x :: m, a => if a = x.1 then some x.2 else Memory.listed m a

/-- Writes one byte, keeping the addresses rising. -/
def Memory.write : Memory → Nat → Byte → Memory
  | [], a, v => [(a, v)]
  | x :: m, a, v =>
    if a < x.1 then (a, v) :: x :: m
    else if a = x.1 then (a, v) :: m
    else x :: Memory.write m a v

/-- `n` cells of zeros from address `a` up. -/
def Memory.zeros (a : Nat) : Nat → Memory
  | 0 => []
  | n + 1 => (a, 0#8) :: Memory.zeros (a + 1) n

/-- What an unlisted address reads as: the free byte of the array's content before the first command (R62, U10). -/
def Pixels.unlisted (k : Pixels) (a : Nat) : Byte := Config.powerOnByte k.before a

/-- The byte at an address of an array of `n` pixels: every address below `3 n` holds one, and there is no other
(R60). -/
def Pixels.read (n : Nat) (k : Pixels) (a : Nat) : Option Byte :=
  if a < 3 * n then some ((k.cells.listed a).getD (k.unlisted a)) else none

/-- Writes the three channels of pixel `i` together (R64, R81). -/
def Pixels.writePixel (k : Pixels) (i : Nat) (r g b : Byte) : Pixels :=
  { k with cells := ((k.cells.write (3 * i) r).write (3 * i + 1) g).write (3 * i + 2) b }

/-- All `n` positions at `(0, 0, 0)` (R63; that a cleared pixel is `(0, 0, 0)` is the spec's reading, G6:
notes/assumptions/10.md). -/
def Pixels.clear (n : Nat) (k : Pixels) : Pixels := { k with cells := Memory.zeros 0 (3 * n) }

/-- The colour of pixel `i` of an array of `n` pixels, `none` beyond the array. -/
def Pixels.pixel (n : Nat) (k : Pixels) (i : Nat) : Option (Byte × Byte × Byte) :=
  match k.read n (3 * i), k.read n (3 * i + 1), k.read n (3 * i + 2) with
  | some r, some g, some b => some (r, g, b)
  | _, _, _ => none

end Sys2Proof.Machine
end

