-- ==== Sys2Proof/Machine/Ops.lean ====
section
/-! DEFINITION. The operations the meanings share: the commands at their receivers (spec/20_memory.md R63 to R65, R72,
R73), the byte-step prologue (spec/30_encoding.md R99), the recovery that the three conditions share
(spec/60_exceptions.md R188), the frame-end tail (spec/41_payload.md R146) and the two watchdog actions
(spec/42_watchdog.md). The block has no exception entry and no return (R188, R189). -/

namespace Sys2Proof.Machine

/-- A command at the sink with `n` positions (R63, R64, R65). The sink ignores a `Set` beyond its end (R64). -/
def Sink.apply (n : Nat) (c : Command) (k : Sink) : Sink :=
  match c with
  | .ack => k
  | .clear => { k with buf := k.buf.clear n }
  | .set idx r g b => if idx.toNat < n then { k with buf := k.buf.writePixel idx.toNat r g b } else k
  | .commit => { k with shown := k.buf }
  | .flush => k

/-- A command at the transport (R72, R73). -/
def Link.apply (ackBytes : List Byte) (c : Command) (l : Link) : Link :=
  match c with
  | .ack => { l with sent := l.sent ++ ackBytes }
  | .clear => l
  | .set _ _ _ _ => l
  | .commit => l
  | .flush => { l with q := [] }

/-- `emit c`: appends the command to the output list, and it takes effect at its receiver (R14, R83). -/
def State.emit (c : Command) (s : State) : State :=
  { s with
    sink := s.sink.apply s.cfg.stripLen c
    link := s.link.apply s.cfg.ackBytes c
    out := s.out ++ [c] }

/-- The byte-step prologue: every byte refreshes `t_last_byte`, and `t_last_ack` with ACK_RESET_ON_BYTE (R99). -/
def State.bytePrologue (s : State) : State :=
  { s with
    tLastByte := s.tNow
    tLastAck := if s.cfg.ackResetOnByte then s.tNow else s.tLastAck }

/-- Back to scan mode: SYNC with progress 0, where all three conditions and every frame end leave the block (R188). -/
def State.toScan (s : State) : State := { s with mode := .sync, progress := 0#8 }

/-- One payload byte consumed: `remaining - 1`, and 0 from 0 (R146, R110). -/
def State.countDown (s : State) : State :=
  { s with remaining := if s.remaining = 0#18 then 0#18 else s.remaining - 1#18 }

/-- The end of a frame: `Commit`, `Flush` with FLUSH_ON_COMMIT, back to scan mode (R146). -/
def State.endFrame (s : State) : State :=
  if s.cfg.flushOnCommit then ((s.emit .commit).emit .flush).toScan else (s.emit .commit).toScan

/-- The frame-end tail, shared by all six payload operations and performed after an operation's own writes (R146). -/
def State.frameEndTail (s : State) : State :=
  if s.countDown.remaining = 0#18 then s.countDown.endFrame else s.countDown

/-- The acknowledgment: `Ack`, and the liveness timer restarts (R162, R164). -/
def State.acknowledge (s : State) : State := { s.emit .ack with tLastAck := s.tNow }

/-- The blanking: `Clear`, `Commit`, back to scan mode, and the inactivity timer restarts (R163, R164, R183). -/
def State.blank (s : State) : State := { ((s.emit .clear).emit .commit).toScan with tLastByte := s.tNow }

end Sys2Proof.Machine
end

