-- ==== Sys2Proof/Machine/Operands.lean ====
section
/-! DEFINITION. The values the operations form from the state (spec/30_encoding.md R93, R94, R95, R110 and
spec/20_memory.md R68) and the one storing operation they share. -/

namespace Sys2Proof.Machine

/-- `hi XOR lo XOR 0x55`, the checksum byte of a header (R95). -/
def headerChecksum (hi lo : Byte) : Byte := hi ^^^ lo ^^^ checksumConst

/-- The count field `256 * hi + lo`, high byte first, 16 bits exact (R93). -/
def countField (hi lo : Byte) : BitVec 16 := BitVec.ofNat 16 (256 * hi.toNat + lo.toNat)

/-- The payload length `3 * (count + 1)`, 18 bits exact (R94). -/
def payloadLength (count : BitVec 16) : Remaining := BitVec.ofNat 18 (bytesPerPixel * (count.toNat + 1))

/-- The index of logical position `p` on a strip: `p`, or `N - 1 - p` when REVERSED (R68). -/
def stripIndex (cfg : Config) (p : Nat) : Nat := if cfg.reversed then cfg.stripLen - 1 - p else p

/-- The index the pixel completed now goes to (R68). -/
def State.pixelIndex (s : State) : PixelIndex := BitVec.ofNat 16 (stripIndex s.cfg s.writePos.toNat)

/-- The magic byte the matcher waits for, `MAGIC[progress]` (R121). -/
def State.expectedMagic (s : State) : Option Byte := s.cfg.magic[s.progress.toNat]?

/-- Stores the blue byte and writes the completed pixel at the position before the increment (R143, R144). -/
def State.completePixel (b : Byte) (s : State) : State :=
  { s.emit (.set s.pixelIndex s.acc.red s.acc.green b) with
    acc := { s.acc with blue := b }
    writePos := s.writePos + 1#17
    chan := 0#2 }

end Sys2Proof.Machine
end

