-- ==== Sys2Proof/Machine/Flags.lean ====
section
/-! DEFINITION. The five predicates of the dispatch (spec/10_state.md R33) and the dispatch word they form
(spec/30_encoding.md R100). They are computed after `t_now` is sampled and are held nowhere. -/

namespace Sys2Proof.Machine

/-- Bit `M`, the mode: 0 SYNC, 1 PAYLOAD (R100). -/
def Mode.bit : Mode → Bool
  | .sync => false
  | .payload => true

/-- The time since a stamp, modulo 2^32 (R110, R168). -/
def State.elapsed (s : State) (stamp : Stamp) : Nat := (s.tNow - stamp).toNat

/-- Bit `A`, acknowledgment due (R100, R160). -/
def State.ackDue (s : State) : Bool := decide (ackIntervalMs ≤ s.elapsed s.tLastAck)

/-- `Traw`, the inactivity window has expired (R160). -/
def State.windowExpired (s : State) : Bool :=
  s.cfg.timeoutMs != 0#32 && decide (s.cfg.timeoutMs.toNat ≤ s.elapsed s.tLastByte)

/-- Bit `T`, blanking due (R100, R160). -/
def State.blankDue (s : State) : Bool := s.windowExpired && (s.ackDue || !s.cfg.wdgNested)

/-- The field `P`, the phase, 0 to 3 (R100). -/
def State.phase (s : State) : Nat :=
  match s.mode with
  | .sync =>
    if s.progress.toNat < s.cfg.magic.length then 0
    else if s.progress.toNat = s.cfg.magic.length then 1
    else if s.progress.toNat = s.cfg.magic.length + 1 then 2
    else 3
  | .payload => if s.writePos.toNat < s.cfg.stripLen then s.chan.toNat else 3

/-- Bit `E`, expected-byte match (R100). -/
def State.expectedByte (s : State) (rx : Option Byte) : Bool :=
  match rx, s.mode with
  | some b, .sync =>
    if s.phase = 0 then s.expectedMagic == some b
    else if s.phase = 3 then b == headerChecksum s.hi s.lo
    else false
  | some _, .payload => false
  | none, _ => false

/-- Bit `Z`, last payload byte (R100). -/
def State.lastPayloadByte (s : State) : Bool := s.mode.bit && decide (s.remaining.toNat ≤ 1)

/-- The bits of the dispatch word (R100). -/
def State.dispatchBits (s : State) (rx : Option Byte) : DispatchBits where
  v := rx.isSome
  m := s.mode.bit
  p1 := decide (2 ≤ s.phase)
  p0 := decide (s.phase % 2 = 1)
  e := s.expectedByte rx
  z := s.lastPayloadByte
  a := s.ackDue
  t := s.blankDue

/-- The dispatch word `DW` (R100). -/
def State.dispatchWord (s : State) (rx : Option Byte) : Byte := wordOfBits (s.dispatchBits rx)

end Sys2Proof.Machine
end

