-- ==== Sys2Proof/Machine/Payload.lean ====
section
/-! DEFINITION. The six operations of a byte step in PAYLOAD mode (spec/41_payload.md), each after the byte-step
prologue (spec/30_encoding.md R99) and before the frame-end tail (spec/41_payload.md R146). -/

namespace Sys2Proof.Machine

/-- PAY.R (R141). -/
def execPayR (b : Byte) (s : State) : Host.Outcome State Fault Refusal :=
  .next (State.frameEndTail { s.bytePrologue with acc := { s.acc with red := b }, chan := 1#2 })

/-- PAY.G (R142). -/
def execPayG (b : Byte) (s : State) : Host.Outcome State Fault Refusal :=
  .next (State.frameEndTail { s.bytePrologue with acc := { s.acc with green := b }, chan := 2#2 })

/-- PAY.B (R143). -/
def execPayB (b : Byte) (s : State) : Host.Outcome State Fault Refusal :=
  .next (s.bytePrologue.completePixel b).frameEndTail

/-- PAY.B.LAST (R144): its dispatch row makes the tail fire. -/
def execPayBLast (b : Byte) (s : State) : Host.Outcome State Fault Refusal :=
  .next (s.bytePrologue.completePixel b).frameEndTail

/-- PAY.SKIP (R145): the byte is discarded. -/
def execPaySkip (_b : Byte) (s : State) : Host.Outcome State Fault Refusal :=
  .next s.bytePrologue.frameEndTail

/-- PAY.SKIP.LAST (R147): its dispatch row makes the tail fire. -/
def execPaySkipLast (_b : Byte) (s : State) : Host.Outcome State Fault Refusal :=
  .next s.bytePrologue.frameEndTail

end Sys2Proof.Machine
end

