-- ==== Sys2Proof/Machine/SyncHeader.lean ====
section
/-! DEFINITION. The six operations of a byte step in SYNC mode (spec/40_sync_header.md), each after the byte-step
prologue (spec/30_encoding.md R99). The byte was compared by the dispatch; only HDR.HI and HDR.LO store it (R103). -/

namespace Sys2Proof.Machine

/-- SYNC.HIT (R121). -/
def execSyncHit (_b : Byte) (s : State) : Host.Outcome State Fault Refusal :=
  .next { s.bytePrologue with progress := s.progress + 1#8 }

/-- SYNC.MISS (R122): the failing byte is dropped. -/
def execSyncMiss (_b : Byte) (s : State) : Host.Outcome State Fault Refusal :=
  .next { s.bytePrologue with progress := 0#8 }

/-- HDR.HI (R123): `progress <- L + 1`. -/
def execHdrHi (b : Byte) (s : State) : Host.Outcome State Fault Refusal :=
  .next { s.bytePrologue with hi := b, progress := BitVec.ofNat 8 (s.cfg.magic.length + 1) }

/-- HDR.LO (R124): `progress <- L + 2`. -/
def execHdrLo (b : Byte) (s : State) : Host.Outcome State Fault Refusal :=
  .next { s.bytePrologue with lo := b, progress := BitVec.ofNat 8 (s.cfg.magic.length + 2) }

/-- HDR.OK (R125). -/
def execHdrOk (_b : Byte) (s : State) : Host.Outcome State Fault Refusal :=
  .next { s.bytePrologue.emit .clear with
    count := countField s.hi s.lo
    remaining := payloadLength (countField s.hi s.lo)
    writePos := 0#17
    chan := 0#2
    mode := .payload
    progress := 0#8 }

/-- HDR.BAD (R126): the write of `progress` alone. -/
def execHdrBad (_b : Byte) (s : State) : Host.Outcome State Fault Refusal :=
  .next { s.bytePrologue with progress := 0#8 }

end Sys2Proof.Machine
end

