-- ==== Sys2Proof/Machine/Watchdog.lean ====
section
/-! DEFINITION. The four operations of an idle step (spec/42_watchdog.md). -/

namespace Sys2Proof.Machine

/-- WDG.IDLE (R161): the step's sampling of `t_now` is all. -/
def execWdgIdle (s : State) : Host.Outcome State Fault Refusal := .next s

/-- WDG.BLANK (R163). -/
def execWdgBlank (s : State) : Host.Outcome State Fault Refusal := .next s.blank

/-- WDG.ACK (R162). -/
def execWdgAck (s : State) : Host.Outcome State Fault Refusal := .next s.acknowledge

/-- WDG.ACKBLANK (R164): the acknowledgment, then the blanking. -/
def execWdgAckblank (s : State) : Host.Outcome State Fault Refusal := .next s.acknowledge.blank

end Sys2Proof.Machine
end

