-- ==== Sys2Proof/Machine/Dispatch.lean ====
section
/-! DEFINITION. One arm for each operation (spec/30_encoding.md R104), run on the state after the poll and the sampling
of `t_now` (spec/30_encoding.md R97, R98). -/

namespace Sys2Proof.Machine

def exec (i : Instr) (s : State) : Host.Outcome State Fault Refusal :=
  match i with
  | .syncHit b => Sys2Proof.Machine.execSyncHit b s
  | .syncMiss b => Sys2Proof.Machine.execSyncMiss b s
  | .hdrHi b => Sys2Proof.Machine.execHdrHi b s
  | .hdrLo b => Sys2Proof.Machine.execHdrLo b s
  | .hdrOk b => Sys2Proof.Machine.execHdrOk b s
  | .hdrBad b => Sys2Proof.Machine.execHdrBad b s
  | .payR b => Sys2Proof.Machine.execPayR b s
  | .payG b => Sys2Proof.Machine.execPayG b s
  | .payB b => Sys2Proof.Machine.execPayB b s
  | .payBLast b => Sys2Proof.Machine.execPayBLast b s
  | .paySkip b => Sys2Proof.Machine.execPaySkip b s
  | .paySkipLast b => Sys2Proof.Machine.execPaySkipLast b s
  | .wdgIdle => Sys2Proof.Machine.execWdgIdle s
  | .wdgBlank => Sys2Proof.Machine.execWdgBlank s
  | .wdgAck => Sys2Proof.Machine.execWdgAck s
  | .wdgAckblank => Sys2Proof.Machine.execWdgAckblank s

end Sys2Proof.Machine
end

