-- ==== Sys2Proof/Machine/Fetch.lean ====
section
/-! DEFINITION. What a clock edge does before the operation runs: it takes the edge's inputs, polls the transport
(spec/20_memory.md R71), samples the timebase (spec/30_encoding.md R98) and selects the operation (spec/30_encoding.md
R100 to R102); and the reset load that overrides the step (spec/70_reset_and_hazards.md R210). The block fetches nothing
from a memory (spec/10_state.md R32): the dispatch word takes the place of a fetched instruction. -/

namespace Sys2Proof.Machine

/-- The input of the `k`-th edge from here: scripted, or a free value where the script has run out (R15, D16). -/
def State.inputAt (s : State) (k : Nat) : Slot := s.script.getD k (Config.freeSlot (s.slotNo + k))

/-- The input of this edge. -/
def State.input (s : State) : Slot := s.inputAt 0

/-- The edge takes its input: the arrivals stand at the tail of `q` before the poll (R70), the script moves on, and the
outputs of the edge before are gone (R35). -/
def State.opened (s : State) : State :=
  { s with
    link := { s.link with q := s.link.q ++ s.input.arrivals }
    out := []
    rxTake := false
    script := s.script.tail
    slotNo := s.slotNo + 1 }

/-- `rst = 1` at the edge: the Session State takes its reset values, with `time0` the value of `time_ms`; no byte is
consumed, no command is issued, and the environment is not reached (R210, R211, R213). -/
def State.loadReset (time0 : Stamp) (s : State) : State :=
  { s with
    mode := .sync
    progress := 0#8
    hi := 0#8
    lo := 0#8
    count := 0#16
    remaining := 0#18
    writePos := 0#17
    chan := 0#2
    acc := ⟨0#8, 0#8, 0#8⟩
    tNow := time0
    tLastByte := time0
    tLastAck := time0 }

/-- `t_now <- time` (R98). -/
def State.sampled (s : State) : State := { s.opened with tNow := s.input.time }

/-- The answer of the step's poll: the head of `q`, or none (R71, R97). -/
def State.rx (s : State) : Option Byte := s.sampled.link.q.head?

/-- The state the operation runs on: `t_now` sampled, the polled byte removed from `q` (R71), `rx_take` equal to
`rx_valid` (R35). -/
def State.prepared (s : State) : State :=
  { s.sampled with
    link := { s.sampled.link with q := s.sampled.link.q.tail }
    rxTake := s.rx.isSome }

/-- The words of this step's instruction: the dispatch word (R100) and the input byte if there is one (R103). -/
def State.fetchBytes (s : State) : List Byte := s.sampled.dispatchWord s.rx :: s.rx.toList

/-- The operation this step executes (R101, R102). -/
def State.fetched (s : State) : Instr := decodeWord (s.sampled.dispatchWord s.rx) (s.rx.getD 0#8)

/-- Sets the matcher so that the byte `b` matches (`hit`) or fails: a place in the magic sequence that does so, or, where
there is none, another first magic byte. -/
def State.placeMatcher (hit : Bool) (b : Byte) (s : State) : State :=
  match s.cfg.magic.findIdx? (fun x => (x == b) == hit) with
  | some k => { s with progress := BitVec.ofNat 8 k }
  | none =>
    { s with
      progress := 0#8
      cfg := { s.cfg with magic := (if hit then b else b + 1#8) :: s.cfg.magic.tail } }

/-- Sets the sequencer so that the bits `M`, `P`, `E`, `Z` of the next dispatch word are those of `d`, where a dispatch
word can have them (R107). -/
def State.placePhase (d : DispatchBits) (b : Byte) (s : State) : State :=
  if d.m then
    { s with
      mode := .payload
      remaining :=
        if d.z then (if s.remaining.toNat ≤ 1 then s.remaining else 1#18)
        else if s.remaining.toNat ≤ 1 then 2#18 else s.remaining
      writePos :=
        if d.p1 && d.p0 then BitVec.ofNat 17 s.cfg.stripLen
        else if s.writePos.toNat < s.cfg.stripLen then s.writePos else 0#17
      chan := if d.p1 then (if d.p0 then s.chan else 2#2) else if d.p0 then 1#2 else 0#2 }
  else if d.p1 then
    if d.p0 then
      { s with
        mode := .sync
        progress := BitVec.ofNat 8 (s.cfg.magic.length + 2)
        lo :=
          if (b == headerChecksum s.hi s.lo) == d.e then s.lo
          else if d.e then s.hi ^^^ b ^^^ checksumConst else s.lo ^^^ 1#8 }
    else { s with mode := .sync, progress := BitVec.ofNat 8 (s.cfg.magic.length + 1) }
  else if d.p0 then { s with mode := .sync, progress := BitVec.ofNat 8 s.cfg.magic.length }
  else if d.v then { s.placeMatcher d.e b with mode := .sync }
  else { s with mode := .sync, progress := 0#8 }

/-- Sets the stamps, and where it must the two watchdog parameters, so that the bits `A` and `T` of the next dispatch
word are those of `d` when the time stands still. -/
def State.placeTimers (d : DispatchBits) (s : State) : State :=
  { s with
    tLastAck := if d.a then s.tNow - BitVec.ofNat 32 ackIntervalMs else s.tNow
    tLastByte :=
      if d.t then
        s.tNow - (if s.cfg.timeoutMs = 0#32 then BitVec.ofNat 32 ackIntervalMs else s.cfg.timeoutMs)
      else s.tNow
    cfg :=
      { s.cfg with
        timeoutMs :=
          if d.t && s.cfg.timeoutMs == 0#32 then BitVec.ofNat 32 ackIntervalMs else s.cfg.timeoutMs
        wdgNested := if d.t && !d.a then false else s.cfg.wdgNested } }

/-- Places an instruction where the next step finds it: parameters within their bounds, the sequencer and the stamps
that give the dispatch word, the input byte at the head of `q` (or `q` empty for an idle step), and an edge with
`rst = 0` and the time unchanged at the front of the script. -/
def State.placeInstr (w b : Byte) (s : State) : State :=
  let d := bitsOfWord w
  let s₀ : State := if s.cfg.runnable then s else { s with cfg := Config.default }
  let s₁ := (s₀.placePhase d b).placeTimers d
  { s₁ with
    link := { s₁.link with q := if d.v then b :: s₁.link.q else [] }
    script := ⟨false, [], s₁.tNow⟩ :: s₁.script }

end Sys2Proof.Machine
end

