-- ==== Sys2Proof/Machine/Step.lean ====
section
/-! DEFINITION. One clock edge (spec/00_scope.md R10, R15; spec/30_encoding.md R101). -/

namespace Sys2Proof.Machine

/-- One clock edge: reset overrides everything (R187, R210), else the one operation that the dispatch selects runs on
the state after the poll (R101). Parameters outside the bounds of R6 are refused (D9, U1, U7). -/
def step (s : State) : Host.Outcome State Fault Refusal :=
  if s.cfg.runnable then
    if s.input.rst then .next (s.opened.loadReset s.input.time)
    else exec s.fetched s.prepared
  else .refused .illegalConfig

/-- `s` with the instruction of the table word `w` placed where the next step selects it: bit 0 of `w` is bit 0 of the
dispatch word, the input byte counts on from bit 8, and bits from `nbits` up are 0. -/
def State.withFetchWord (s : State) (nbits w : Nat) : State :=
  s.placeInstr (BitVec.ofNat 8 (w % 2 ^ nbits)) (BitVec.ofNat 8 (w % 2 ^ nbits / 256))

end Sys2Proof.Machine
end

