-- ==== Sys2Proof/Machine/Ports.lean ====
section
/-! DEFINITION. The output ports of a step as strobes (spec/10_state.md R35), read off its output list, and the list a
receiver reads back from the strobes (spec/10_state.md R36). The port `rx_take` is the field `rxTake` of State. -/

namespace Sys2Proof.Machine

/-- The strobes of a step. `sinkSet` carries `sink_idx`, `sink_r`, `sink_g`, `sink_b`, which are unspecified (none)
when `sink_set = 0` (R35). -/
structure Ports where
  txAck : Bool
  rxFlush : Bool
  sinkClear : Bool
  sinkSet : Option (PixelIndex × Byte × Byte × Byte)
  sinkCommit : Bool
  deriving DecidableEq, Repr

/-- The data of the first `Set` of an output list. -/
def firstSet : List Command → Option (PixelIndex × Byte × Byte × Byte)
  | [] => none
  | .set idx r g b :: _ => some (idx, r, g, b)
  | .ack :: cs => firstSet cs
  | .clear :: cs => firstSet cs
  | .commit :: cs => firstSet cs
  | .flush :: cs => firstSet cs

/-- The ports of the step that left this state (R35). -/
def State.ports (s : State) : Ports where
  txAck := s.out.contains .ack
  rxFlush := s.out.contains .flush
  sinkClear := s.out.contains .clear
  sinkSet := firstSet s.out
  sinkCommit := s.out.contains .commit

/-- The commands a receiver reads from the strobes, applied in the fixed order of R36. -/
def Ports.commands (p : Ports) : List Command :=
  (if p.txAck then [.ack] else []) ++ (if p.sinkClear then [.clear] else []) ++
    (match p.sinkSet with
      | some (idx, r, g, b) => [.set idx r g b]
      | none => []) ++
    (if p.sinkCommit then [.commit] else []) ++ (if p.rxFlush then [.flush] else [])

end Sys2Proof.Machine
end

