-- ==== Sys2Proof/Machine/Wire.lean ====
section
/-! DEFINITION. What a host emits: the wire frame format (spec/30_encoding.md R90 to R94) and the stimulus notation
(spec/30_encoding.md R108, R109) as encoders of byte streams and of input slots. -/

namespace Sys2Proof.Machine

/-- The three channels of a pixel in wire order (R76). -/
abbrev Colour := Byte × Byte × Byte

/-- The header `HEADER c` of R109: the magic sequence, the count high byte first, the checksum (R90, R91). -/
def headerBytes (cfg : Config) (c : BitVec 16) : List Byte :=
  let hh := BitVec.ofNat 8 (c.toNat / 256)
  let ll := BitVec.ofNat 8 (c.toNat % 256)
  cfg.magic ++ [hh, ll, headerChecksum hh ll]

/-- `BADHEADER c, x` of R109. -/
def badHeaderBytes (cfg : Config) (c : BitVec 16) (x : Byte) : List Byte :=
  cfg.magic ++ [BitVec.ofNat 8 (c.toNat / 256), BitVec.ofNat 8 (c.toNat % 256), x]

/-- `PIXEL rrggbb` of R109: red, green, blue (R76). -/
def pixelBytes (p : Colour) : List Byte := [p.1, p.2.1, p.2.2]

/-- The payload: consecutive triples, position 0 first (R90, R76). -/
def payloadBytes (ps : List Colour) : List Byte := ps.flatMap pixelBytes

/-- `FRAME c : p0 … pc` of R109: a header and its payload (R90). -/
def frameBytes (cfg : Config) (c : BitVec 16) (ps : List Colour) : List Byte :=
  headerBytes cfg c ++ payloadBytes ps

/-- A line of a script (R108). -/
inductive Line where
  /-- `RX xx @t`: a byte step. -/
  | rx (b : Byte) (t : Stamp)
  /-- `IDLE @t`: an idle step. -/
  | idle (t : Stamp)
  deriving DecidableEq, Repr

/-- The input slot of a line: with an empty queue, the byte is the answer of the step's poll (R71, R108). -/
def lineSlot : Line → Slot
  | .rx b t => ⟨false, [b], t⟩
  | .idle t => ⟨false, [], t⟩

/-- The lines of a byte stream at one time (R109: all lines of an expansion carry its time). -/
def streamLines (bs : List Byte) (t : Stamp) : List Line := bs.map (fun b => .rx b t)

/-- `WAIT a..z step d` of R109 as `n` idle lines from `a` on. -/
def waitLines (a d : Stamp) : Nat → List Line
  | 0 => []
  | n + 1 => .idle a :: waitLines (a + d) d n

/-- The state with a script placed before its inputs. -/
def State.withLines (s : State) (ls : List Line) : State :=
  { s with script := ls.map lineSlot ++ s.script }

end Sys2Proof.Machine
end

