-- ==== Sys2Proof/Safety.lean ====
section
/-! DEFINITION. The terms the claims use: the operations and commands of a run, edges without reset, the invariant of
the reachable states (spec/10_state.md R40 to R45), and when two machines agree on all that can still be observed
(spec/10_state.md R38). -/

namespace Sys2Proof.Machine

/-- This edge is a byte step with the byte `b`: parameters in bounds, no reset, the poll answers `b` (R97). -/
structure State.ByteStep (s : State) (b : Byte) : Prop where
  runnable : s.cfg.runnable = true
  running : s.input.rst = false
  polled : s.rx = some b

/-- This edge is an idle step: parameters in bounds, no reset, the poll answers none (R97). -/
structure State.IdleStep (s : State) : Prop where
  runnable : s.cfg.runnable = true
  running : s.input.rst = false
  polled : s.rx = none

/-- No reset in the next `n` edges. -/
def State.Running (s : State) (n : Nat) : Prop := ∀ k, k < n → (s.inputAt k).rst = false

/-- The commands of the next `n` steps, in order; they end where a step has no next state. -/
def State.commands (s : State) : Nat → List Command
  | 0 => []
  | n + 1 =>
    match step s with
    | .next t => t.out ++ t.commands n
    | .fault _ => []
    | .refused _ => []

/-- The steps of the next `n` edges, in order: the operation each runs and the commands it emits. An edge with `rst = 1`
runs none (R210), and the list ends where a step has no next state. -/
def State.trace (s : State) : Nat → List (Instr × List Command)
  | 0 => []
  | n + 1 =>
    match step s with
    | .next t => if s.input.rst then t.trace n else (s.fetched, t.out) :: t.trace n
    | .fault _ => []
    | .refused _ => []

/-- The byte steps among the next `n` edges (R97). -/
def State.byteTrace (s : State) (n : Nat) : List (Instr × List Command) :=
  (s.trace n).filter (fun e => e.1.operand.isSome)

/-- The bytes the next `n` edges consume, in order. -/
def State.received (s : State) (n : Nat) : List Byte := (s.trace n).filterMap (fun e => e.1.operand)

/-- No reset in the next `n` edges, and no idle step among them blanks: the idle steps that R129 and R148 allow anywhere
among the byte steps. -/
def State.Undisturbed (s : State) (n : Nat) : Prop :=
  s.Running n ∧ ∀ e ∈ s.trace n, e.1 ≠ .wdgBlank ∧ e.1 ≠ .wdgAckblank

/-- An idle step of the next `n` edges emits nothing or one `Ack`. -/
def State.IdleStepsOnlyAcknowledge (s : State) (n : Nat) : Prop :=
  ∀ e ∈ s.trace n, e.1.operand = none → e.2 = [] ∨ e.2 = [.ack]

/-- In SYNC mode `0 <= progress <= L + 2` (R41), in PAYLOAD mode `progress = 0` (R42). -/
def State.ProgressInRange (s : State) : Prop :=
  (s.mode = .sync → s.progress.toNat ≤ s.cfg.magic.length + 2) ∧ (s.mode = .payload → s.progress = 0#8)

/-- The payload counter in PAYLOAD mode: its range (R43) and what ties it to the position (R44). -/
def State.CounterInStep (s : State) : Prop :=
  s.mode = .payload →
    1 ≤ s.remaining.toNat ∧ s.remaining.toNat ≤ 196608 ∧
    (s.writePos.toNat < s.cfg.stripLen →
      s.remaining.toNat + 3 * s.writePos.toNat + s.chan.toNat = 3 * (s.count.toNat + 1)) ∧
    (s.writePos.toNat = s.cfg.stripLen →
      s.chan = 0#2 ∧ s.remaining.toNat + 3 * s.cfg.stripLen ≤ 3 * (s.count.toNat + 1))

/-- The invariant of the reachable states: R40, R41, R42, R43 and R44, R45, and the canonical form of the pixel space
with every listed address on the strip. -/
structure State.Inv (s : State) : Prop where
  runnable : s.cfg.runnable = true
  chanSlot : s.chan ≠ 3#2
  progressInRange : s.ProgressInRange
  counterInStep : s.CounterInStep
  positionOnStrip : s.writePos.toNat ≤ s.cfg.stripLen
  positionOfFrame : s.mode = .payload → s.writePos.toNat ≤ s.count.toNat + 1
  bufCanonical : s.sink.buf.cells.wf = true
  shownCanonical : s.sink.shown.cells.wf = true
  bufOnStrip : ∀ a, 3 * s.cfg.stripLen ≤ a → s.sink.buf.cells.listed a = none
  shownOnStrip : ∀ a, 3 * s.cfg.stripLen ≤ a → s.sink.shown.cells.listed a = none

/-- The two machines agree on everything that a later step can observe: all but `count` and `t_now`, which no operation
reads before it is written, and the registers that are dead where they stand (R37, R38, R46): `hi` and `lo` before they
are captured, `remaining`, `write_pos`, `chan` and `acc` outside a frame, a channel of `acc` before it is stored. -/
structure State.AgreeOnLive (s u : State) : Prop where
  cfg : u.cfg = s.cfg
  mode : u.mode = s.mode
  progress : u.progress = s.progress
  tLastByte : u.tLastByte = s.tLastByte
  tLastAck : u.tLastAck = s.tLastAck
  sink : u.sink = s.sink
  link : u.link = s.link
  script : u.script = s.script
  slotNo : u.slotNo = s.slotNo
  hi : s.mode = .sync → s.cfg.magic.length + 1 ≤ s.progress.toNat → u.hi = s.hi
  lo : s.mode = .sync → s.cfg.magic.length + 2 ≤ s.progress.toNat → u.lo = s.lo
  remaining : s.mode = .payload → u.remaining = s.remaining
  writePos : s.mode = .payload → u.writePos = s.writePos
  chan : s.mode = .payload → u.chan = s.chan
  red : s.mode = .payload → s.chan ≠ 0#2 → u.acc.red = s.acc.red
  green : s.mode = .payload → s.chan ≠ 0#2 → s.chan ≠ 1#2 → u.acc.green = s.acc.green

end Sys2Proof.Machine
end

