-- ==== Sys2Proof/Certificates/Slice0/Obligations.lean ====
section
/-! DEFINITION. The statements for the provers, each from the numbered rules of spec/ its docstring names. -/

open Sys2Proof Sys2Proof.Machine

/-! ### Encoding -/

/-- One word of every row of R104, written out from its bit pattern, some with untested bits set as in the vectors of
95_test_vectors.md (V-S10, V-P15, V-W5, V-W11, V-W15; P7), decodes to the row's operation. That the input byte follows
the dispatch word in the list is the model's choice (notes/assumptions/7.md). -/
def Obligations.SpecWordsDecode : Prop :=
  decode [0b10001011#8, 0x41#8] = .ok (.syncHit 0x41#8, []) ∧
  decode [0b10000000#8, 0x64#8] = .ok (.syncMiss 0x64#8, []) ∧
  decode [0b10010000#8, 0x12#8] = .ok (.hdrHi 0x12#8, []) ∧
  decode [0b10100000#8, 0x34#8] = .ok (.hdrLo 0x34#8, []) ∧
  decode [0b10111010#8, 0x55#8] = .ok (.hdrOk 0x55#8, []) ∧
  decode [0b10110000#8, 0x56#8] = .ok (.hdrBad 0x56#8, []) ∧
  decode [0b11000000#8, 0xFF#8] = .ok (.payR 0xFF#8, []) ∧
  decode [0b11010010#8, 0x00#8] = .ok (.payG 0x00#8, []) ∧
  decode [0b11100000#8, 0x30#8] = .ok (.payB 0x30#8, []) ∧
  decode [0b11100110#8, 0x1E#8] = .ok (.payBLast 0x1E#8, []) ∧
  decode [0b11110000#8, 0x11#8] = .ok (.paySkip 0x11#8, []) ∧
  decode [0b11110100#8, 0x33#8] = .ok (.paySkipLast 0x33#8, []) ∧
  decode [0b01100100#8] = .ok (.wdgIdle, []) ∧
  decode [0b01000001#8] = .ok (.wdgBlank, []) ∧
  decode [0b01100010#8] = .ok (.wdgAck, []) ∧
  decode [0b01100011#8] = .ok (.wdgAckblank, [])

/-- R102: the sixteen rows are pairwise disjoint and cover all 256 words; the row a word selects is the row of the
operation the decoder gives. -/
def Obligations.EveryWordSelectsOneRow : Prop :=
  opcodeTable.length = 16 ∧
    ∀ w b : Byte, opcodeTable.filter (fun r => r.selects w) = [(decodeWord w b).row]

/-- Decode and encode agree: the byte lists that decode to an instruction are its encodings, with every value of the
bits its row does not test and every operand, followed by the rest (R102, R103, R104; that the operand byte follows the
dispatch word is the model's choice, notes/assumptions/7.md). -/
def Obligations.DecodesExactlyTheEncodings : Prop :=
  ∀ (i : Instr) (bs rest : List Byte),
    decode bs = .ok (i, rest) ↔ ∃ spare : Byte, bs = encodeWith spare i ++ rest

/-- The two lists of bytes that are no instruction, by name; nothing else is refused (R102, R106, R107). -/
def Obligations.DecodeRefusesOnlyMissingBytes : Prop :=
  ∀ bs : List Byte,
    (decode bs = .error .noDispatchWord ↔ bs = []) ∧
    (decode bs = .error .noInputByte ↔ ∃ w : Byte, bs = [w] ∧ w.getLsbD 7 = true)

/-! ### The step -/

/-- A step runs the decoded instruction (R97, R98, R101): on the state in which the input of the edge has been taken,
`t_now` holds the time of the step and the polled byte has left the queue. That the words of a step are its dispatch
word and its byte, as a list to decode, is the model's choice (notes/assumptions/7.md), and so is the script that
holds the inputs (notes/assumptions/4.md). -/
def Obligations.StepRunsFetchedInstruction : Prop :=
  ∀ (s : State) (i : Instr) (rest : List Byte),
    s.cfg.runnable = true → s.input.rst = false → decode s.fetchBytes = .ok (i, rest) →
    rest = [] ∧ step s = exec i s.prepared ∧
    s.rx = (s.link.q ++ s.input.arrivals).head? ∧
    s.fetchBytes = State.dispatchWord { s with tNow := s.input.time } s.rx :: s.rx.toList ∧
    s.prepared =
      { s with
        tNow := s.input.time
        link := { s.link with q := (s.link.q ++ s.input.arrivals).tail }
        out := []
        rxTake := s.rx.isSome
        script := s.script.tail
        slotNo := s.slotNo + 1 }

/-- R100: every bit of the dispatch word. -/
def Obligations.DispatchWordBits : Prop :=
  ∀ (s : State) (rx : Option Byte),
    (s.dispatchWord rx).getLsbD 7 = rx.isSome ∧
    ((s.dispatchWord rx).getLsbD 6 = true ↔ s.mode = .payload) ∧
    ((s.dispatchWord rx >>> 4) &&& 3#8).toNat =
      (match s.mode with
        | .sync =>
          if s.progress.toNat < s.cfg.magic.length then 0
          else if s.progress.toNat = s.cfg.magic.length then 1
          else if s.progress.toNat = s.cfg.magic.length + 1 then 2
          else 3
        | .payload => if s.writePos.toNat < s.cfg.stripLen ∧ s.chan ≠ 3#2 then s.chan.toNat else 3) ∧
    ((s.dispatchWord rx).getLsbD 3 = true ↔
      s.mode = .sync ∧ ∃ b, rx = some b ∧
        (s.progress.toNat < s.cfg.magic.length ∧ s.cfg.magic[s.progress.toNat]? = some b ∨
          s.cfg.magic.length + 2 ≤ s.progress.toNat ∧ b = s.hi ^^^ s.lo ^^^ 0x55#8)) ∧
    ((s.dispatchWord rx).getLsbD 2 = true ↔ s.mode = .payload ∧ s.remaining.toNat ≤ 1) ∧
    ((s.dispatchWord rx).getLsbD 1 = true ↔ 1000 ≤ (s.tNow - s.tLastAck).toNat) ∧
    ((s.dispatchWord rx).getLsbD 0 = true ↔
      s.cfg.timeoutMs ≠ 0#32 ∧ s.cfg.timeoutMs.toNat ≤ (s.tNow - s.tLastByte).toNat ∧
        (1000 ≤ (s.tNow - s.tLastAck).toNat ∨ s.cfg.wdgNested = false))

/-- R121 to R126: a byte step in SYNC mode selects its operation by `progress` and the byte, and writes what the
operation's pseudocode writes after the prologue of R99; every other register keeps its value. The sink takes the
`Clear` of HDR.OK (what that leaves in it is the statement ClearFrame). -/
def Obligations.ByteStepInSyncMode : Prop :=
  ∀ (s : State) (b : Byte), s.ByteStep b → s.mode = .sync →
    let L := s.cfg.magic.length
    let p : State :=
      { s.prepared with
        tLastByte := s.input.time
        tLastAck := if s.cfg.ackResetOnByte then s.input.time else s.tLastAck }
    if s.progress.toNat < L then
      if s.cfg.magic[s.progress.toNat]? = some b then
        s.fetched = .syncHit b ∧ step s = .next { p with progress := BitVec.ofNat 8 (s.progress.toNat + 1) }
      else s.fetched = .syncMiss b ∧ step s = .next { p with progress := 0#8 }
    else if s.progress.toNat = L then
      s.fetched = .hdrHi b ∧ step s = .next { p with hi := b, progress := BitVec.ofNat 8 (L + 1) }
    else if s.progress.toNat = L + 1 then
      s.fetched = .hdrLo b ∧ step s = .next { p with lo := b, progress := BitVec.ofNat 8 (L + 2) }
    else if b = s.hi ^^^ s.lo ^^^ 0x55#8 then
      s.fetched = .hdrOk b ∧
      step s = .next
        { p with
          count := BitVec.ofNat 16 (256 * s.hi.toNat + s.lo.toNat)
          remaining := BitVec.ofNat 18 (3 * (256 * s.hi.toNat + s.lo.toNat + 1))
          writePos := 0#17
          chan := 0#2
          mode := .payload
          progress := 0#8
          sink := s.sink.apply s.cfg.stripLen .clear
          out := [.clear] }
    else s.fetched = .hdrBad b ∧ step s = .next { p with progress := 0#8 }

/-- R141 to R147: a byte step in PAYLOAD mode selects its operation by `write_pos`, `chan` and `remaining`, and writes
what the operation's pseudocode and the frame-end tail write after the prologue of R99; every other register keeps its
value. -/
def Obligations.ByteStepInPayloadMode : Prop :=
  ∀ (s : State) (b : Byte), s.ByteStep b → s.mode = .payload →
    let last := s.remaining.toNat ≤ 1
    let idx := BitVec.ofNat 16
      (if s.cfg.reversed then s.cfg.stripLen - 1 - s.writePos.toNat else s.writePos.toNat)
    let p : State :=
      { s.prepared with
        tLastByte := s.input.time
        tLastAck := if s.cfg.ackResetOnByte then s.input.time else s.tLastAck
        remaining := BitVec.ofNat 18 (s.remaining.toNat - 1) }
    let tail : State → State := fun u =>
      if last then
        { u with
          mode := .sync
          progress := 0#8
          sink := { u.sink with shown := u.sink.buf }
          link := if s.cfg.flushOnCommit then { u.link with q := [] } else u.link
          out := u.out ++ .commit :: (if s.cfg.flushOnCommit then [.flush] else []) }
      else u
    let pixel : State :=
      { p with
        acc := { s.acc with blue := b }
        writePos := BitVec.ofNat 17 (s.writePos.toNat + 1)
        chan := 0#2
        sink := { s.sink with buf := s.sink.buf.writePixel idx.toNat s.acc.red s.acc.green b }
        out := [.set idx s.acc.red s.acc.green b] }
    if s.writePos.toNat < s.cfg.stripLen ∧ s.chan = 0#2 then
      s.fetched = .payR b ∧ step s = .next (tail { p with acc := { s.acc with red := b }, chan := 1#2 })
    else if s.writePos.toNat < s.cfg.stripLen ∧ s.chan = 1#2 then
      s.fetched = .payG b ∧ step s = .next (tail { p with acc := { s.acc with green := b }, chan := 2#2 })
    else if s.writePos.toNat < s.cfg.stripLen ∧ s.chan = 2#2 then
      (if last then s.fetched = .payBLast b else s.fetched = .payB b) ∧ step s = .next (tail pixel)
    else (if last then s.fetched = .paySkipLast b else s.fetched = .paySkip b) ∧ step s = .next (tail p)

/-- R161 to R164: an idle step selects its operation by the two conditions of R160 and writes what the operation's
pseudocode writes; every other register keeps its value. The sink takes the `Clear` and the `Commit` of a blanking
(what they leave in it is the statement ClearFrame). -/
def Obligations.IdleStepRunsWatchdog : Prop :=
  ∀ s : State, s.IdleStep →
    let ackDue := 1000 ≤ (s.input.time - s.tLastAck).toNat
    let expired := s.cfg.timeoutMs ≠ 0#32 ∧ s.cfg.timeoutMs.toNat ≤ (s.input.time - s.tLastByte).toNat
    let blanked := (s.sink.apply s.cfg.stripLen .clear).apply s.cfg.stripLen .commit
    if ackDue then
      if expired then
        s.fetched = .wdgAckblank ∧
        step s = .next
          { s.prepared with
            mode := .sync
            progress := 0#8
            tLastAck := s.input.time
            tLastByte := s.input.time
            sink := blanked
            link := { s.prepared.link with sent := s.link.sent ++ s.cfg.ackBytes }
            out := [.ack, .clear, .commit] }
      else
        s.fetched = .wdgAck ∧
        step s = .next
          { s.prepared with
            tLastAck := s.input.time
            link := { s.prepared.link with sent := s.link.sent ++ s.cfg.ackBytes }
            out := [.ack] }
    else if expired ∧ s.cfg.wdgNested = false then
      s.fetched = .wdgBlank ∧
      step s = .next
        { s.prepared with
          mode := .sync
          progress := 0#8
          tLastByte := s.input.time
          sink := blanked
          out := [.clear, .commit] }
    else s.fetched = .wdgIdle ∧ step s = .next s.prepared

/-- With `rst = 1` at the edge the Session State takes its reset values, with `time0` the time of the edge, no byte is
consumed and no command is issued (R210); the parameters, the sink and the transport keep what they hold (R211, R213).
It overrides the step whatever else is pending (R187). That the bytes that arrive at this edge join the queue is the
model's reading (notes/assumptions/14.md), the script and its counter are its own (notes/assumptions/4.md). -/
def Obligations.ResetEdgeLoadsResetState : Prop :=
  ∀ s : State, s.cfg.runnable = true → s.input.rst = true →
    step s = .next
      { State.resetWith s.cfg s.input.time with
        sink := s.sink
        link := { s.link with q := s.link.q ++ s.input.arrivals }
        script := s.script.tail
        slotNo := s.slotNo + 1 }

/-- The step is total (R15, R180): with parameters in bounds every state and input has a next state. Outside the bounds
the model refuses, as D9, U1 and U7 ask (notes/assumptions/8.md). -/
def Obligations.StepAnswersUnlessParametersIllegal : Prop :=
  ∀ s : State,
    (s.cfg.runnable = true → ∃ t, step s = .next t) ∧
    (s.cfg.runnable = false → step s = .refused .illegalConfig)

/-- No operation and no step refuses or stalls an operation: every operation of the table answers a next state in every
state (R180).
(In states of no dispatch: notes/assumptions/13.md.) -/
def Obligations.EveryOperationAnswers : Prop :=
  ∀ (i : Instr) (s : State), ∃ t, exec i s = .next t ∧ t.cfg = s.cfg ∧ t.tNow = s.tNow ∧
    t.script = s.script ∧ t.slotNo = s.slotNo ∧ t.rxTake = s.rxTake

/-! ### The operations

What `exec` gives in every state, also in one in which the dispatch would select another operation or none: there the
pseudocode is read alone (notes/assumptions/13.md). -/

/-- SYNC.HIT and SYNC.MISS (R121, R122), whatever the state they run in: the prologue's stamps and `progress` are all
they write (in states of no dispatch: notes/assumptions/13.md). -/
def Obligations.MatcherOperations : Prop :=
  ∀ (s : State) (b : Byte),
    exec (.syncHit b) s = .next
      { s with
        tLastByte := s.tNow
        tLastAck := if s.cfg.ackResetOnByte then s.tNow else s.tLastAck
        progress := s.progress + 1#8 } ∧
    exec (.syncMiss b) s = .next
      { s with
        tLastByte := s.tNow
        tLastAck := if s.cfg.ackResetOnByte then s.tNow else s.tLastAck
        progress := 0#8 }

/-- HDR.HI and HDR.LO (R123, R124), whatever the state they run in (notes/assumptions/13.md). -/
def Obligations.HeaderCaptureOperations : Prop :=
  ∀ (s : State) (b : Byte),
    exec (.hdrHi b) s = .next
      { s with
        tLastByte := s.tNow
        tLastAck := if s.cfg.ackResetOnByte then s.tNow else s.tLastAck
        hi := b
        progress := BitVec.ofNat 8 (s.cfg.magic.length + 1) } ∧
    exec (.hdrLo b) s = .next
      { s with
        tLastByte := s.tNow
        tLastAck := if s.cfg.ackResetOnByte then s.tNow else s.tLastAck
        lo := b
        progress := BitVec.ofNat 8 (s.cfg.magic.length + 2) }

/-- HDR.OK and HDR.BAD (R125, R126), whatever the state they run in: an accepted header clears the buffer without
latching and opens the payload, a rejected one writes `progress` alone (in states of no dispatch:
notes/assumptions/13.md). -/
def Obligations.ChecksumOperations : Prop :=
  ∀ (s : State) (b : Byte),
    exec (.hdrOk b) s = .next
      { s with
        tLastByte := s.tNow
        tLastAck := if s.cfg.ackResetOnByte then s.tNow else s.tLastAck
        count := BitVec.ofNat 16 (256 * s.hi.toNat + s.lo.toNat)
        remaining := BitVec.ofNat 18 (3 * (256 * s.hi.toNat + s.lo.toNat + 1))
        writePos := 0#17
        chan := 0#2
        mode := .payload
        progress := 0#8
        sink := s.sink.apply s.cfg.stripLen .clear
        out := s.out ++ [.clear] } ∧
    exec (.hdrBad b) s = .next
      { s with
        tLastByte := s.tNow
        tLastAck := if s.cfg.ackResetOnByte then s.tNow else s.tLastAck
        progress := 0#8 }

/-- The frame-end tail (R146) of all six payload operations: each counts `remaining` down, not below 0, and exactly when
the count reaches 0 it emits `Commit`, with FLUSH_ON_COMMIT also `Flush`, and returns to SYNC with progress 0.
(In states of no dispatch: notes/assumptions/13.md.) -/
def Obligations.PayloadOperationsEndTheFrame : Prop :=
  ∀ (s t : State) (b : Byte) (i : Instr),
    i ∈ [Instr.payR b, .payG b, .payB b, .payBLast b, .paySkip b, .paySkipLast b] → exec i s = .next t →
    t.remaining.toNat = s.remaining.toNat - 1 ∧
    (if s.remaining.toNat ≤ 1 then
      t.mode = .sync ∧ t.progress = 0#8 ∧ t.sink.shown = t.sink.buf ∧
      (∃ cs, (cs = s.out ∨ cs = s.out ++ [.set s.pixelIndex s.acc.red s.acc.green b]) ∧
        t.out = cs ++ .commit :: (if s.cfg.flushOnCommit then [.flush] else [])) ∧
      t.link = (if s.cfg.flushOnCommit then { s.link with q := [] } else s.link)
    else
      t.mode = s.mode ∧ t.progress = s.progress ∧ t.sink.shown = s.sink.shown ∧ t.link = s.link ∧
      (Command.commit ∈ t.out → Command.commit ∈ s.out))

/-- PAY.R and PAY.G (R141, R142) with more payload to come, as in every reachable state: the byte goes to its slot of
the accumulator.
(In states of no dispatch: notes/assumptions/13.md.) -/
def Obligations.ColourStoreOperations : Prop :=
  ∀ (s : State) (b : Byte), 1 < s.remaining.toNat →
    exec (.payR b) s = .next
      { s with
        tLastByte := s.tNow
        tLastAck := if s.cfg.ackResetOnByte then s.tNow else s.tLastAck
        acc := { s.acc with red := b }
        chan := 1#2
        remaining := s.remaining - 1#18 } ∧
    exec (.payG b) s = .next
      { s with
        tLastByte := s.tNow
        tLastAck := if s.cfg.ackResetOnByte then s.tNow else s.tLastAck
        acc := { s.acc with green := b }
        chan := 2#2
        remaining := s.remaining - 1#18 }

/-- PAY.R and PAY.G on the last byte of a payload, which no reachable state has (R146, D17; vectors V-U4, V-U5): the
tail fires.
(In states of no dispatch: notes/assumptions/13.md.) -/
def Obligations.ColourStoreOnLastByte : Prop :=
  ∀ (s : State) (b : Byte), s.remaining.toNat ≤ 1 →
    ∃ t u, exec (.payR b) s = .next t ∧ exec (.payG b) s = .next u ∧
      t.acc = { s.acc with red := b } ∧ t.chan = 1#2 ∧ u.acc = { s.acc with green := b } ∧ u.chan = 2#2 ∧
      (∀ v ∈ [t, u], v.remaining = 0#18 ∧ v.mode = .sync ∧ v.progress = 0#8 ∧ v.sink = ⟨s.sink.buf, s.sink.buf⟩ ∧
        v.out = s.out ++ .commit :: (if s.cfg.flushOnCommit then [.flush] else []) ∧
        v.writePos = s.writePos ∧ v.hi = s.hi ∧ v.lo = s.lo ∧ v.count = s.count)

/-- PAY.B (R143) with more payload to come: the completed pixel goes to the index formed from `write_pos` before the
increment (R68); the red and green are those of the accumulator, the blue is the input byte.
(In states of no dispatch: notes/assumptions/13.md.) -/
def Obligations.PixelOperation : Prop :=
  ∀ (s : State) (b : Byte), 1 < s.remaining.toNat → s.cfg.stripLen ≤ 65536 → s.writePos.toNat < s.cfg.stripLen →
    let idx := if s.cfg.reversed then s.cfg.stripLen - 1 - s.writePos.toNat else s.writePos.toNat
    exec (.payB b) s = .next
      { s with
        tLastByte := s.tNow
        tLastAck := if s.cfg.ackResetOnByte then s.tNow else s.tLastAck
        acc := { s.acc with blue := b }
        sink := { s.sink with buf := s.sink.buf.writePixel idx s.acc.red s.acc.green b }
        out := s.out ++ [.set (BitVec.ofNat 16 idx) s.acc.red s.acc.green b]
        writePos := s.writePos + 1#17
        chan := 0#2
        remaining := s.remaining - 1#18 }

/-- PAY.B.LAST (R144) on the last byte: the pixel is written and the frame ends; the image shown is the buffer with that
pixel.
(In states of no dispatch: notes/assumptions/13.md.) -/
def Obligations.LastPixelOperation : Prop :=
  ∀ (s : State) (b : Byte), s.remaining.toNat ≤ 1 → s.cfg.stripLen ≤ 65536 → s.writePos.toNat < s.cfg.stripLen →
    let idx := if s.cfg.reversed then s.cfg.stripLen - 1 - s.writePos.toNat else s.writePos.toNat
    let image := s.sink.buf.writePixel idx s.acc.red s.acc.green b
    exec (.payBLast b) s = .next
      { s with
        tLastByte := s.tNow
        tLastAck := if s.cfg.ackResetOnByte then s.tNow else s.tLastAck
        acc := { s.acc with blue := b }
        sink := ⟨image, image⟩
        link := if s.cfg.flushOnCommit then { s.link with q := [] } else s.link
        out := s.out ++ (.set (BitVec.ofNat 16 idx) s.acc.red s.acc.green b ::
          .commit :: (if s.cfg.flushOnCommit then [.flush] else []))
        writePos := s.writePos + 1#17
        chan := 0#2
        remaining := 0#18
        mode := .sync
        progress := 0#8 }

/-- PAY.SKIP (R145) with more payload to come, and PAY.SKIP.LAST (R147) on the last byte: the byte is discarded; the
last one ends the frame and shows the buffer.
(In states of no dispatch: notes/assumptions/13.md.) -/
def Obligations.SkipOperations : Prop :=
  ∀ (s : State) (b : Byte),
    (1 < s.remaining.toNat →
      exec (.paySkip b) s = .next
        { s with
          tLastByte := s.tNow
          tLastAck := if s.cfg.ackResetOnByte then s.tNow else s.tLastAck
          remaining := s.remaining - 1#18 }) ∧
    (s.remaining.toNat ≤ 1 →
      exec (.paySkipLast b) s = .next
        { s with
          tLastByte := s.tNow
          tLastAck := if s.cfg.ackResetOnByte then s.tNow else s.tLastAck
          sink := ⟨s.sink.buf, s.sink.buf⟩
          link := if s.cfg.flushOnCommit then { s.link with q := [] } else s.link
          out := s.out ++ .commit :: (if s.cfg.flushOnCommit then [.flush] else [])
          remaining := 0#18
          mode := .sync
          progress := 0#8 })

/-- WDG.IDLE, WDG.ACK, WDG.BLANK and WDG.ACKBLANK (R161 to R164), whatever the state they run in
(notes/assumptions/13.md). -/
def Obligations.WatchdogOperations : Prop :=
  ∀ s : State,
    let blanked := (s.sink.apply s.cfg.stripLen .clear).apply s.cfg.stripLen .commit
    exec .wdgIdle s = .next s ∧
    exec .wdgAck s = .next
      { s with
        tLastAck := s.tNow
        link := { s.link with sent := s.link.sent ++ s.cfg.ackBytes }
        out := s.out ++ [.ack] } ∧
    exec .wdgBlank s = .next
      { s with
        mode := .sync
        progress := 0#8
        tLastByte := s.tNow
        sink := blanked
        out := s.out ++ [.clear, .commit] } ∧
    exec .wdgAckblank s = .next
      { s with
        mode := .sync
        progress := 0#8
        tLastAck := s.tNow
        tLastByte := s.tNow
        sink := blanked
        link := { s.link with sent := s.link.sent ++ s.cfg.ackBytes }
        out := s.out ++ [.ack, .clear, .commit] }

/-- The count and the payload length an accepted header gives (R93, R94): `256 * hi + lo` in 16 bits and
`3 * (count + 1)` in 18 bits, neither of which wraps, whatever the strip length.
(In states of no dispatch: notes/assumptions/13.md.) -/
def Obligations.AcceptedCountIsExact : Prop :=
  ∀ (s t : State) (b : Byte), exec (.hdrOk b) s = .next t →
    t.count.toNat = 256 * s.hi.toNat + s.lo.toNat ∧
    t.remaining.toNat = 3 * (t.count.toNat + 1) ∧
    3 ≤ t.remaining.toNat ∧ t.remaining.toNat ≤ 196608

/-! ### The pixel space -/

/-- What PAY.B and PAY.B.LAST store (R64, R68): the three bytes of the pixel at the index the operation forms, and no
other byte of the buffer; an index beyond the strip stores nothing. The shown image changes only if the frame ends.
(That the red, green and blue bytes of pixel `i` stand at `3 i`, `3 i + 1` and `3 i + 2`: notes/assumptions/5.md; in
states of no dispatch: notes/assumptions/13.md.) -/
def Obligations.PixelStoreFrame : Prop :=
  ∀ (s t : State) (b : Byte) (i : Instr), i = .payB b ∨ i = .payBLast b → exec i s = .next t →
    let N := s.cfg.stripLen
    (∀ a, t.sink.buf.read N a =
      if s.pixelIndex.toNat < N then
        if a = 3 * s.pixelIndex.toNat then some s.acc.red
        else if a = 3 * s.pixelIndex.toNat + 1 then some s.acc.green
        else if a = 3 * s.pixelIndex.toNat + 2 then some b
        else s.sink.buf.read N a
      else s.sink.buf.read N a) ∧
    (1 < s.remaining.toNat → ∀ a, t.sink.shown.read N a = s.sink.shown.read N a)

/-- What HDR.OK, WDG.BLANK and WDG.ACKBLANK store (R63, R65): zeros at every byte of the strip; HDR.OK leaves the
shown image alone ("clearing must not itself latch"), the two blanking operations show the cleared buffer.
(That a cleared pixel is all zeros: notes/assumptions/10.md; that the strip's bytes stand at the addresses below `3 N`
and no byte stands beyond them: notes/assumptions/5.md; in states of no dispatch: notes/assumptions/13.md.) -/
def Obligations.ClearFrame : Prop :=
  ∀ (s t : State) (b : Byte) (i : Instr), i = .hdrOk b ∨ i = .wdgBlank ∨ i = .wdgAckblank → exec i s = .next t →
    let N := s.cfg.stripLen
    (∀ a, t.sink.buf.read N a = if a < 3 * N then some 0#8 else none) ∧
    (∀ a, t.sink.shown.read N a =
      if i = .hdrOk b then s.sink.shown.read N a else if a < 3 * N then some 0#8 else none)

/-- The operations that store no byte of the pixel space: the matcher, the header captures, the rejected header and
the two idle operations without blanking change neither array; PAY.R, PAY.G, PAY.SKIP and PAY.SKIP.LAST do not change
the buffer, and not the shown image either unless the frame ends (R60, R63 to R65).
(The bytes of the pixel space: notes/assumptions/5.md; in states of no dispatch: notes/assumptions/13.md.) -/
def Obligations.NonStoringFrame : Prop :=
  ∀ (s t : State) (b : Byte) (i : Instr), exec i s = .next t →
    let N := s.cfg.stripLen
    (i ∈ [Instr.syncHit b, .syncMiss b, .hdrHi b, .hdrLo b, .hdrBad b, .wdgIdle, .wdgAck] →
      ∀ a, t.sink.buf.read N a = s.sink.buf.read N a ∧ t.sink.shown.read N a = s.sink.shown.read N a) ∧
    (i ∈ [Instr.payR b, .payG b, .paySkip b, .paySkipLast b] →
      ∀ a, t.sink.buf.read N a = s.sink.buf.read N a ∧
        (1 < s.remaining.toNat → t.sink.shown.read N a = s.sink.shown.read N a))

/-- The commands at the sink (R63, R64, R65), position by position: `Clear` zeroes every position and does not latch,
`Set` writes one position and is ignored beyond the strip, `Commit` copies the buffer.
(That a cleared pixel is all zeros: notes/assumptions/10.md.) -/
def Obligations.SinkCommands : Prop :=
  ∀ (s : State) (idx : PixelIndex) (r g b : Byte) (j : Nat),
    let N := s.cfg.stripLen
    (j < N → (s.emit .clear).sink.buf.pixel N j = some (0#8, 0#8, 0#8)) ∧
    (s.emit .clear).sink.shown = s.sink.shown ∧
    (s.emit (.set idx r g b)).sink.buf.pixel N j =
      (if idx.toNat < N ∧ j = idx.toNat then some (r, g, b) else s.sink.buf.pixel N j) ∧
    (s.emit (.set idx r g b)).sink.shown = s.sink.shown ∧
    (s.emit .commit).sink.shown = s.sink.buf ∧ (s.emit .commit).sink.buf = s.sink.buf

/-- The commands at the transport (R72, R73), and that each receiver takes only its own commands (R14). -/
def Obligations.TransportCommands : Prop :=
  ∀ (s : State) (idx : PixelIndex) (r g b : Byte),
    (s.emit .ack).link.sent = s.link.sent ++ s.cfg.ackBytes ∧ (s.emit .ack).link.q = s.link.q ∧
    (s.emit .flush).link.q = [] ∧ (s.emit .flush).link.sent = s.link.sent ∧
    (s.emit .ack).sink = s.sink ∧ (s.emit .flush).sink = s.sink ∧
    (∀ c ∈ [Command.clear, .set idx r g b, .commit], (s.emit c).link = s.link)

/-- The sink is unspecified at reset (R62): every address of the strip holds a byte in both arrays, in every state,
and no other address does; after reset it is the free byte of the array's own content, on which no statement depends,
and a reset edge changes none (R213; the form of a free value is the model's, notes/assumptions/5.md). -/
def Obligations.SinkIsArbitraryUntilWritten : Prop :=
  (∀ (n : Nat) (k : Pixels) (a : Nat), (k.read n a).isSome = true ↔ a < 3 * n) ∧
  (∀ (cfg : Config) (time0 : Stamp) (a : Nat), a < 3 * cfg.stripLen →
    (State.resetWith cfg time0).sink.buf.read cfg.stripLen a = some (Config.powerOnByte .buf a) ∧
    (State.resetWith cfg time0).sink.shown.read cfg.stripLen a = some (Config.powerOnByte .shown a)) ∧
  (∀ (n : Nat) (k : Pixels) (i : Nat) (r g b : Byte) (a : Nat), k.cells = [] → i < n →
    a < 3 * n → ¬ (3 * i ≤ a ∧ a < 3 * i + 3) →
    (k.writePixel i r g b).read n a = some (Config.powerOnByte k.before a)) ∧
  (∀ s t : State, s.input.rst = true → step s = .next t → t.sink = s.sink)

/-- R67, what the LEDs can show: a step changes the shown image only with a `Commit`, and then shows the buffer; a
blanking shows all zeros.
(That a cleared pixel is all zeros: notes/assumptions/10.md.) -/
def Obligations.ShownChangesOnlyByCommit : Prop :=
  ∀ s t : State, step s = .next t →
    (t.sink.shown ≠ s.sink.shown → Command.commit ∈ t.out) ∧
    (Command.commit ∈ t.out → t.sink.shown = t.sink.buf) ∧
    (s.input.rst = false → s.fetched = .wdgBlank ∨ s.fetched = .wdgAckblank →
      Command.commit ∈ t.out ∧ ∀ j, j < s.cfg.stripLen → t.sink.shown.pixel s.cfg.stripLen j = some (0#8, 0#8, 0#8))

/-! ### Invariants and whole-machine rules -/

/-- The invariant holds after reset, for all parameters in bounds and every reset time (R38, R40 to R45; that the sink
holds free bytes then is the model's form of an unspecified content, notes/assumptions/5.md). -/
def Obligations.InvariantHoldsAtReset : Prop :=
  (∀ (cfg : Config) (time0 : Stamp), cfg.runnable = true → (State.resetWith cfg time0).Inv) ∧ State.reset.Inv

/-- Every step keeps the invariant (R40 to R45, and the canonical form of the pixel space on the strip).
(How the pixel space is held: notes/assumptions/5.md.) -/
def Obligations.StepKeepsInvariant : Prop :=
  ∀ s t : State, s.Inv → step s = .next t → t.Inv

/-- R40, R41, R42, R45 for the states reached from `Reset(time0)` under any parameters in bounds and any inputs.
(How the inputs are held: notes/assumptions/4.md.) -/
def Obligations.ReachableStatesKeepTheirRanges : Prop :=
  ∀ (cfg : Config) (time0 : Stamp) (script : List Slot) (n : Nat) (t : State), cfg.runnable = true →
    Host.Core.run Sys2Proof.core n { State.resetWith cfg time0 with script := script } = .next t →
    t.chan ≠ 3#2 ∧
    (t.mode = .sync → t.progress.toNat ≤ cfg.magic.length + 2) ∧
    (t.mode = .payload → t.progress = 0#8) ∧
    (t.mode = .payload → 1 ≤ t.remaining.toNat ∧ t.remaining.toNat ≤ 196608) ∧
    t.writePos.toNat ≤ cfg.stripLen ∧ (t.mode = .payload → t.writePos.toNat ≤ t.count.toNat + 1)

/-- R36: no step's output list holds the same kind of command twice, and the kinds stand in the order `Ack`, `Clear`,
`Set`, `Commit`, `Flush`; so the strobes of R35 carry the whole list. -/
def Obligations.OutputListIsOrdered : Prop :=
  ∀ s t : State, step s = .next t →
    t.out.Pairwise (fun c d => c.rank < d.rank) ∧ t.ports.commands = t.out

/-- R68 and D30: a `Set` carries the completed pixel, its index is that of the write position before the step, and it
lies on the strip. -/
def Obligations.SetLiesOnTheStrip : Prop :=
  ∀ (s t : State) (idx : PixelIndex) (r g b : Byte), step s = .next t → Command.set idx r g b ∈ t.out →
    s.writePos.toNat < s.cfg.stripLen ∧
    idx.toNat = (if s.cfg.reversed then s.cfg.stripLen - 1 - s.writePos.toNat else s.writePos.toNat) ∧
    idx.toNat < s.cfg.stripLen ∧ r = s.acc.red ∧ g = s.acc.green ∧ s.rx = some b

/-- R99: every byte step, whichever operation it is, leaves `t_last_byte` at the time of the step, and `t_last_ack` too
with ACK_RESET_ON_BYTE, else as it was; and it emits no `Ack` (R97, R225). -/
def Obligations.ByteStepStamps : Prop :=
  ∀ (s t : State) (b : Byte), s.ByteStep b → step s = .next t →
    t.tNow = s.input.time ∧ t.tLastByte = t.tNow ∧
    t.tLastAck = (if s.cfg.ackResetOnByte then t.tNow else s.tLastAck) ∧
    t.rxTake = true ∧ Command.ack ∉ t.out ∧ t.link.sent = s.link.sent

/-- R160, last sentence: no idle operation consumes a byte or touches `hi`, `lo`, `count`, `remaining`, `write_pos`,
`chan` or `acc`; so a pixel in progress survives idle steps (R149). -/
def Obligations.IdleStepKeepsTheFrame : Prop :=
  ∀ s t : State, s.IdleStep → step s = .next t →
    t.hi = s.hi ∧ t.lo = s.lo ∧ t.count = s.count ∧ t.remaining = s.remaining ∧ t.writePos = s.writePos ∧
    t.chan = s.chan ∧ t.acc = s.acc ∧ t.rxTake = false ∧ t.link.q = s.link.q ++ s.input.arrivals

/-- The writers of R37: a register that an operation changes is one the table lists it for; and no operation writes the
parameters.
(In states of no dispatch: notes/assumptions/13.md.) -/
def Obligations.OnlyListedWriters : Prop :=
  ∀ (i : Instr) (s t : State), exec i s = .next t →
    t.cfg = s.cfg ∧ t.tNow = s.tNow ∧
    (t.hi ≠ s.hi → ∃ b, i = .hdrHi b) ∧
    (t.lo ≠ s.lo → ∃ b, i = .hdrLo b) ∧
    (t.count ≠ s.count → ∃ b, i = .hdrOk b) ∧
    (t.remaining ≠ s.remaining → ∃ b, i ∈ [Instr.hdrOk b, .payR b, .payG b, .payB b, .payBLast b, .paySkip b,
      .paySkipLast b]) ∧
    (t.writePos ≠ s.writePos → ∃ b, i ∈ [Instr.hdrOk b, .payB b, .payBLast b]) ∧
    (t.chan ≠ s.chan → ∃ b, i ∈ [Instr.hdrOk b, .payR b, .payG b, .payB b, .payBLast b]) ∧
    (t.acc.red ≠ s.acc.red → ∃ b, i = .payR b) ∧
    (t.acc.green ≠ s.acc.green → ∃ b, i = .payG b) ∧
    (t.acc.blue ≠ s.acc.blue → ∃ b, i = .payB b ∨ i = .payBLast b) ∧
    (t.tLastByte ≠ s.tLastByte → i.operand.isSome ∨ i = .wdgBlank ∨ i = .wdgAckblank) ∧
    (t.tLastAck ≠ s.tLastAck → i = .wdgAck ∨ i = .wdgAckblank ∨ i.operand.isSome ∧ s.cfg.ackResetOnByte = true) ∧
    (t.progress ≠ s.progress → i ≠ .wdgIdle ∧ i ≠ .wdgAck) ∧
    (t.mode ≠ s.mode → i = .wdgBlank ∨ i = .wdgAckblank ∨
      ∃ b, i ∈ [Instr.hdrOk b, .payR b, .payG b, .payB b, .payBLast b, .paySkip b, .paySkipLast b])

/-- Under the invariant a frame ends exactly on its last byte, by PAY.B.LAST or PAY.SKIP.LAST and by no other
operation (R140): `remaining` reaches 0 only in the step that emits `Commit` and leaves PAYLOAD mode (R25). -/
def Obligations.FrameEndsOnItsLastByte : Prop :=
  ∀ (s t : State) (b : Byte), s.Inv → s.ByteStep b → s.mode = .payload → step s = .next t →
    (t.mode = .sync ↔ s.remaining = 1#18) ∧
    (t.remaining = 0#18 ↔ s.remaining = 1#18) ∧
    (Command.commit ∈ t.out ↔ s.remaining = 1#18) ∧
    (s.remaining = 1#18 ↔ s.fetched = .payBLast b ∨ s.fetched = .paySkipLast b)

/-- The operation a step selects is one its parameters allow: SYNC.HIT only on a magic byte, SYNC.MISS only on a byte
some element differs from, the blanking operations only with a timeout, WDG.BLANK only if the check is not nested (R100,
R104, R163). -/
def Obligations.SelectedOperationIsWellFormed : Prop :=
  ∀ s : State, Instr.wf s.cfg s.fetched = true

/-! ### The matcher and the header -/

/-- R95 and X2: at the checksum byte exactly the byte `hi XOR lo XOR 0x55` accepts the header; every other byte rejects
it and the synchronization starts again. -/
def Obligations.ChecksumAcceptsOneByte : Prop :=
  ∀ (s : State) (b : Byte), s.ByteStep b → s.mode = .sync → s.progress.toNat = s.cfg.magic.length + 2 →
    (s.fetched = .hdrOk b ↔ b = s.hi ^^^ s.lo ^^^ 0x55#8) ∧
    (s.fetched = .hdrBad b ↔ b ≠ s.hi ^^^ s.lo ^^^ 0x55#8) ∧
    ∃ t, step s = .next t ∧ t.progress = 0#8 ∧
      (t.mode = .payload ↔ b = s.hi ^^^ s.lo ^^^ 0x55#8) ∧ (t.mode = .sync ↔ b ≠ s.hi ^^^ s.lo ^^^ 0x55#8)

/-- The failing byte is dropped (R122, C2): with distinct magic values, a byte equal to `MAGIC[0]` that breaks a partial
match does not begin a new one. -/
def Obligations.BrokenMatchIsNotRescanned : Prop :=
  ∀ (s : State) (b : Byte), s.cfg.wf = true → s.ByteStep b → s.mode = .sync → 0 < s.progress.toNat →
    s.progress.toNat < s.cfg.magic.length → s.cfg.magic[0]? = some b →
    s.fetched = .syncMiss b ∧ ∃ t, step s = .next t ∧ t.mode = .sync ∧ t.progress = 0#8 ∧ t.out = []

/-- Noise between frames is skipped (R96, C8): bytes none of which is `MAGIC[0]` leave a block in scan mode there, with
no command, however many they are. -/
def Obligations.NoiseIsSkipped : Prop :=
  ∀ (noise rest : List Byte) (s : State), s.cfg.runnable = true → s.mode = .sync → s.progress = 0#8 →
    s.link.q = noise ++ rest → (∀ b ∈ noise, s.cfg.magic[0]? ≠ some b) → s.Running noise.length →
    ∃ t, Host.Core.run Sys2Proof.core noise.length s = .next t ∧ t.mode = .sync ∧ t.progress = 0#8 ∧
      t.sink = s.sink ∧ (∃ more, t.link.q = rest ++ more) ∧ s.commands noise.length = []

/-- R129 for a header that arrives without a gap: from scan mode the bytes `MAGIC, h, l, c` are accepted exactly if `c
= h XOR l XOR 0x55`; then the block is in PAYLOAD mode with the count of the header, and the only command is one
`Clear`, in the last step; else it is back in scan mode and no command was issued. -/
def Obligations.HeaderAcceptance : Prop :=
  ∀ (s : State) (h l c : Byte) (rest : List Byte), s.cfg.runnable = true → s.mode = .sync → s.progress = 0#8 →
    s.link.q = s.cfg.magic ++ [h, l, c] ++ rest → s.Running (s.cfg.magic.length + 3) →
    ∃ t, Host.Core.run Sys2Proof.core (s.cfg.magic.length + 3) s = .next t ∧
      t.progress = 0#8 ∧ t.hi = h ∧ t.lo = l ∧ t.cfg = s.cfg ∧ (∃ more, t.link.q = rest ++ more) ∧
      s.commands (s.cfg.magic.length + 2) = [] ∧
      (if c = h ^^^ l ^^^ 0x55#8 then
        t.mode = .payload ∧ t.count.toNat = 256 * h.toNat + l.toNat ∧
        t.remaining.toNat = 3 * (256 * h.toNat + l.toNat + 1) ∧ t.writePos = 0#17 ∧ t.chan = 0#2 ∧
        s.commands (s.cfg.magic.length + 3) = [.clear]
      else t.mode = .sync ∧ t.count = s.count ∧ t.sink = s.sink ∧ s.commands (s.cfg.magic.length + 3) = [])

/-- R129: from scan mode the bytes `MAGIC, h, l, c`, with idle steps anywhere among them that do not blank, run `L`
SYNC.HIT, one HDR.HI, one HDR.LO and then HDR.OK if `c = h XOR l XOR 0x55`, HDR.BAD otherwise; `Clear`, in the step of
HDR.OK, is the only command of the byte steps, and the idle steps send acknowledgments at most. -/
def Obligations.HeaderAcceptanceAmongIdleSteps : Prop :=
  ∀ (s : State) (h l c : Byte) (n : Nat), s.cfg.runnable = true → s.mode = .sync → s.progress = 0#8 →
    s.Undisturbed n → s.received n = s.cfg.magic ++ [h, l, c] →
    s.IdleStepsOnlyAcknowledge n ∧
    s.byteTrace n =
      s.cfg.magic.map (fun b => (Instr.syncHit b, [])) ++
        [(.hdrHi h, []), (.hdrLo l, []),
          if c = h ^^^ l ^^^ 0x55#8 then (.hdrOk c, [.clear]) else (.hdrBad c, [])] ∧
    ∃ t, Host.Core.run Sys2Proof.core n s = .next t ∧ t.progress = 0#8 ∧ t.hi = h ∧ t.lo = l ∧ t.cfg = s.cfg ∧
      (if c = h ^^^ l ^^^ 0x55#8 then
        t.mode = .payload ∧ t.count.toNat = 256 * h.toNat + l.toNat ∧
        t.remaining.toNat = 3 * (256 * h.toNat + l.toNat + 1) ∧ t.writePos = 0#17 ∧ t.chan = 0#2
      else t.mode = .sync ∧ t.count = s.count ∧ t.sink = s.sink)

/-! ### Frames -/

/-- R91, R94: the length of a frame is `L + 3 + 3 * (count + 1)` bytes, its header `L + 3`, its payload
`3 * (count + 1)`. -/
def Obligations.FrameLengths : Prop :=
  ∀ (cfg : Config) (c : BitVec 16) (ps : List Colour), ps.length = c.toNat + 1 →
    (headerBytes cfg c).length = cfg.magic.length + 3 ∧ (payloadBytes ps).length = 3 * (c.toNat + 1) ∧
    (frameBytes cfg c ps).length = cfg.magic.length + 3 + 3 * (c.toNat + 1)

/-- R150: in PAYLOAD mode no sequence of bytes returns the block to SYNC before `remaining` bytes have been consumed,
and that many do. -/
def Obligations.PayloadEndsOnlyByCount : Prop :=
  ∀ (n : Nat) (s : State), s.cfg.runnable = true → s.mode = .payload → n ≤ s.remaining.toNat →
    0 < s.remaining.toNat → n ≤ s.link.q.length → s.Running n →
    ∃ t, Host.Core.run Sys2Proof.core n s = .next t ∧ t.remaining.toNat = s.remaining.toNat - n ∧
      (if n < s.remaining.toNat then t.mode = .payload else t.mode = .sync ∧ t.progress = 0#8)

/-- R148 for a payload that arrives without a gap. From the state an accepted header leaves, the payload bytes emit
one `Set` for each pixel on the strip, in the order of the logical positions, then one `Commit`, in the step of the
last byte, then `Flush` if FLUSH_ON_COMMIT, and the block is back in scan mode. -/
def Obligations.DeliveredFrameCommands : Prop :=
  ∀ (s : State) (ps : List Colour) (rest : List Byte), s.cfg.runnable = true → s.mode = .payload →
    s.progress = 0#8 → s.writePos = 0#17 → s.chan = 0#2 → s.remaining.toNat = 3 * (s.count.toNat + 1) →
    ps.length = s.count.toNat + 1 → s.link.q = payloadBytes ps ++ rest → s.Running (3 * ps.length) →
    ∃ t, Host.Core.run Sys2Proof.core (3 * ps.length) s = .next t ∧ t.mode = .sync ∧ t.progress = 0#8 ∧
      Command.commit ∉ s.commands (3 * ps.length - 1) ∧
      s.commands (3 * ps.length) =
        ((ps.take s.cfg.stripLen).mapIdx fun p c =>
          Command.set (BitVec.ofNat 16 (if s.cfg.reversed then s.cfg.stripLen - 1 - p else p)) c.1 c.2.1 c.2.2) ++
        .commit :: (if s.cfg.flushOnCommit then [.flush] else [])

/-- A well-formed frame that arrives without a gap is shown (R90, R67 (b), R228): from scan mode, a frame of `count +
1` pixels puts the first `N` of them on the strip in the configured direction, leaves every other position dark, and
the block is back in scan mode.
(That a cleared pixel is all zeros: notes/assumptions/10.md.) -/
def Obligations.WellFormedFrameIsShown : Prop :=
  ∀ (s : State) (c : BitVec 16) (ps : List Colour) (rest : List Byte), s.cfg.runnable = true → s.mode = .sync →
    s.progress = 0#8 → ps.length = c.toNat + 1 → s.link.q = frameBytes s.cfg c ps ++ rest →
    s.Running (frameBytes s.cfg c ps).length →
    ∃ t, Host.Core.run Sys2Proof.core (frameBytes s.cfg c ps).length s = .next t ∧
      t.mode = .sync ∧ t.progress = 0#8 ∧
      ∀ p, p < s.cfg.stripLen →
        t.sink.shown.pixel s.cfg.stripLen (if s.cfg.reversed then s.cfg.stripLen - 1 - p else p) =
          some ((ps[p]?).getD (0#8, 0#8, 0#8))

/-- R148: a completely delivered frame. From the state an accepted header leaves, the payload bytes, with idle steps
anywhere among them that do not blank, emit one `Set` for each pixel on the strip, in the order of the logical
positions, then one `Commit`, in the step of the last byte, then `Flush` if FLUSH_ON_COMMIT; the idle steps send
acknowledgments at most, and the block is back in scan mode. -/
def Obligations.DeliveredFrameAmongIdleSteps : Prop :=
  ∀ (s : State) (ps : List Colour) (n : Nat), s.cfg.runnable = true → s.mode = .payload → s.progress = 0#8 →
    s.writePos = 0#17 → s.chan = 0#2 → s.remaining.toNat = 3 * (s.count.toNat + 1) →
    ps.length = s.count.toNat + 1 → s.Undisturbed n → s.received n = payloadBytes ps →
    s.IdleStepsOnlyAcknowledge n ∧
    (s.byteTrace n).flatMap Prod.snd =
      ((ps.take s.cfg.stripLen).mapIdx fun p c =>
        Command.set (BitVec.ofNat 16 (if s.cfg.reversed then s.cfg.stripLen - 1 - p else p)) c.1 c.2.1 c.2.2) ++
      .commit :: (if s.cfg.flushOnCommit then [.flush] else []) ∧
    Command.commit ∉ (s.byteTrace n).dropLast.flatMap Prod.snd ∧
    ∃ t, Host.Core.run Sys2Proof.core n s = .next t ∧ t.mode = .sync ∧ t.progress = 0#8

/-- A well-formed frame is shown (R90, R67 (b), R149, R228), with idle steps anywhere among its bytes that do not blank:
from scan mode, a frame of `count + 1` pixels puts the first `N` of them on the strip in the configured direction, leaves
every other position dark, and the block is back in scan mode.
(That a cleared pixel is all zeros: notes/assumptions/10.md.) -/
def Obligations.WellFormedFrameIsShownAmongIdleSteps : Prop :=
  ∀ (s : State) (c : BitVec 16) (ps : List Colour) (n : Nat), s.cfg.runnable = true → s.mode = .sync →
    s.progress = 0#8 → ps.length = c.toNat + 1 → s.Undisturbed n → s.received n = frameBytes s.cfg c ps →
    ∃ t, Host.Core.run Sys2Proof.core n s = .next t ∧ t.mode = .sync ∧ t.progress = 0#8 ∧
      ∀ p, p < s.cfg.stripLen →
        t.sink.shown.pixel s.cfg.stripLen (if s.cfg.reversed then s.cfg.stripLen - 1 - p else p) =
          some ((ps[p]?).getD (0#8, 0#8, 0#8))

/-! ### The watchdog -/

/-- The acknowledgment (R162, R193): it is sent in an idle step exactly if at least 1000 ms have passed since the stamp,
modulo 2^32, and the stamp is then the time of this step. -/
def Obligations.AcknowledgmentSpacing : Prop :=
  ∀ s t : State, s.input.rst = false → step s = .next t →
    (Command.ack ∈ t.out ↔ s.rx = none ∧ 1000 ≤ (s.input.time - s.tLastAck).toNat) ∧
    (Command.ack ∈ t.out → t.tLastAck = s.input.time ∧ t.link.sent = s.link.sent ++ s.cfg.ackBytes)

/-- With `TIMEOUT_MS = 0` no blanking ever occurs in an idle step, and acknowledgments are still sent (R165, R162). -/
def Obligations.ZeroTimeoutNeverBlanks : Prop :=
  ∀ s t : State, s.IdleStep → s.cfg.timeoutMs = 0#32 → step s = .next t →
    t.mode = s.mode ∧ t.progress = s.progress ∧ t.sink = s.sink ∧ t.tLastByte = s.tLastByte ∧
    t.out = (if 1000 ≤ (s.input.time - s.tLastAck).toNat then [.ack] else [])

/-- Re-arming (R165): after a blanking step, in unbroken silence of any length, no idle step blanks before
`TIMEOUT_MS` have passed since; and whatever idle steps without a blanking have followed, the next one blanks exactly
if `TIMEOUT_MS` have passed since and, with WDG_NESTED, the acknowledgment is due in it. With WDG_NESTED both timers
start at the blanking. -/
def Obligations.BlankingRearms : Prop :=
  ∀ (s t u : State) (n : Nat), s.IdleStep → step s = .next t → Command.clear ∈ t.out → t.Running n →
    t.received n = [] → Host.Core.run Sys2Proof.core n t = .next u →
    t.tLastByte = t.tNow ∧ (s.cfg.wdgNested = true → t.tLastAck = t.tNow) ∧
    ((∀ k, k < n → ((t.inputAt k).time - t.tNow).toNat < s.cfg.timeoutMs.toNat) →
      Command.clear ∉ t.commands n ∧ Command.commit ∉ t.commands n) ∧
    (Command.clear ∉ t.commands n → ∀ v, u.IdleStep → step u = .next v →
      let blanks := s.cfg.timeoutMs.toNat ≤ (u.input.time - t.tNow).toNat ∧
        (s.cfg.wdgNested = true → 1000 ≤ (u.input.time - u.tLastAck).toNat)
      (Command.clear ∈ v.out ↔ blanks) ∧ (Command.commit ∈ v.out ↔ blanks))

/-- The time arithmetic (R168), for both stamps: one taken `d` milliseconds ago, `d` below 2^32, reads as `d`, also
across the wrap of the counter; so the acknowledgment is due exactly if `d` is at least 1000, and the inactivity
window has expired exactly if the timeout is enabled and `d` is at least `TIMEOUT_MS`. -/
def Obligations.ElapsedTimeSurvivesTheWrap : Prop :=
  ∀ (s : State) (d : Nat), d < 2 ^ 32 →
    (s.tNow = s.tLastAck + BitVec.ofNat 32 d →
      s.elapsed s.tLastAck = d ∧ (s.ackDue = true ↔ 1000 ≤ d)) ∧
    (s.tNow = s.tLastByte + BitVec.ofNat 32 d →
      s.elapsed s.tLastByte = d ∧
      (s.windowExpired = true ↔ s.cfg.timeoutMs ≠ 0#32 ∧ s.cfg.timeoutMs.toNat ≤ d))

/-! ### What cannot be seen -/

/-- Every step keeps the agreement of two machines on their live registers, and both issue the same commands (R37,
R38): a machine that differs in dead registers answers a next state too, with the same output list. -/
def Obligations.StepKeepsLiveAgreement : Prop :=
  ∀ s u t : State, s.AgreeOnLive u → step s = .next t →
    ∃ v, step u = .next v ∧ v.out = t.out ∧ v.rxTake = t.rxTake ∧ t.AgreeOnLive v

/-- R38, last paragraph: in scan mode the values of `hi`, `lo`, `count`, `remaining`, `write_pos`, `chan` and `acc` are
dead; two machines that differ only there issue the same commands for every input, for ever. -/
def Obligations.StaleRegistersAreUnobservable : Prop :=
  ∀ (s : State) (hi lo : Byte) (count : BitVec 16) (remaining : Remaining) (writePos : WritePos) (chan : BitVec 2)
    (acc : Acc) (n : Nat), s.mode = .sync → s.progress = 0#8 →
    State.commands
      { s with
        hi := hi
        lo := lo
        count := count
        remaining := remaining
        writePos := writePos
        chan := chan
        acc := acc } n = s.commands n
end

