-- ==== Sys2Proof/Laws/Decode.lean ====
section
/-! SUPPORT. The dispatch word and its bits: packing and reading them back agree. -/

namespace Sys2Proof

/-- The bits read from a packed word are the bits packed. -/
@[simp] theorem bitsOfWord_wordOfBits (d : DispatchBits) : bitsOfWord (wordOfBits d) = d := by
  obtain ⟨v, m, p1, p0, e, z, a, t⟩ := d
  revert v m p1 p0 e z a t
  decide

/-- A packed word selects by its bits. -/
@[simp] theorem decodeWord_wordOfBits (d : DispatchBits) (b : Byte) :
    decodeWord (wordOfBits d) b = decodeBits d b := by
  simp [decodeWord]

end Sys2Proof
end

