-- ==== Sys2Proof/Laws/Flags.lean ====
section
/-! SUPPORT. What each predicate of the dispatch says (spec/30_encoding.md R100), in numbers. -/

namespace Sys2Proof.Machine

@[simp] theorem Mode.bit_sync : Mode.sync.bit = false := rfl

@[simp] theorem Mode.bit_payload : Mode.payload.bit = true := rfl

theorem Mode.bit_iff (m : Mode) : m.bit = true ↔ m = .payload := by cases m <;> simp

theorem State.ackDue_iff (s : State) : s.ackDue = true ↔ 1000 ≤ (s.tNow - s.tLastAck).toNat :=
  decide_eq_true_iff

theorem State.windowExpired_iff (s : State) :
    s.windowExpired = true ↔
      s.cfg.timeoutMs ≠ 0#32 ∧ s.cfg.timeoutMs.toNat ≤ (s.tNow - s.tLastByte).toNat := by
  rw [State.windowExpired, Bool.and_eq_true, bne_iff_ne]
  exact and_congr_right' decide_eq_true_iff

theorem State.blankDue_iff (s : State) :
    s.blankDue = true ↔ s.windowExpired = true ∧ (s.ackDue = true ∨ s.cfg.wdgNested = false) := by
  simp only [State.blankDue, Bool.and_eq_true, Bool.or_eq_true, Bool.not_eq_true']

theorem State.lastPayloadByte_iff (s : State) :
    s.lastPayloadByte = true ↔ s.mode = .payload ∧ s.remaining.toNat ≤ 1 := by
  simp only [State.lastPayloadByte, Bool.and_eq_true, Mode.bit_iff, decide_eq_true_iff]

theorem State.phase_of_sync (s : State) (h : s.mode = .sync) :
    s.phase =
      if s.progress.toNat < s.cfg.magic.length then 0
      else if s.progress.toNat = s.cfg.magic.length then 1
      else if s.progress.toNat = s.cfg.magic.length + 1 then 2
      else 3 := by
  simp only [State.phase, h]

theorem State.phase_of_payload (s : State) (h : s.mode = .payload) :
    s.phase = if s.writePos.toNat < s.cfg.stripLen then s.chan.toNat else 3 := by
  simp only [State.phase, h]

theorem State.phase_lt (s : State) : s.phase < 4 := by
  cases h : s.mode
  · rw [State.phase_of_sync s h]
    repeat' split
    all_goals omega
  · rw [State.phase_of_payload s h]
    split <;> omega

/-- The byte the matcher compares (R121). -/
theorem State.expectedByte_of_matching (s : State) (b : Byte) (h : s.mode = .sync)
    (hp : s.progress.toNat < s.cfg.magic.length) :
    s.expectedByte (some b) = true ↔ s.cfg.magic[s.progress.toNat]? = some b := by
  simp only [State.expectedByte, h, State.phase_of_sync s h, hp, if_true, State.expectedMagic, beq_iff_eq]

/-- The byte the checksum validator compares (R95, R125). -/
theorem State.expectedByte_of_checksum (s : State) (b : Byte) (h : s.mode = .sync)
    (hp : s.cfg.magic.length + 2 ≤ s.progress.toNat) :
    s.expectedByte (some b) = true ↔ b = s.hi ^^^ s.lo ^^^ 0x55#8 := by
  have h0 : ¬ s.progress.toNat < s.cfg.magic.length := by omega
  have h1 : ¬ s.progress.toNat = s.cfg.magic.length := by omega
  have h2 : ¬ s.progress.toNat = s.cfg.magic.length + 1 := by omega
  simp [State.expectedByte, h, State.phase_of_sync s h, h0, h1, h2, headerChecksum, checksumConst]

end Sys2Proof.Machine
end

