-- ==== Sys2Proof/Laws/Memory.lean ====
section
/-! SUPPORT. The laws of the pixel space: what a read sees after each write, and that every operation keeps the
canonical form. -/

namespace Sys2Proof.Machine

@[simp] theorem Memory.listed_nil (a : Nat) : Memory.listed [] a = none := rfl

@[simp] theorem Memory.listed_cons (x : Host.Cell) (m : Memory) (a : Nat) :
    Memory.listed (x :: m) a = if a = x.1 then some x.2 else Memory.listed m a := rfl

/-- A read after a write sees the value written at its address, and the old value elsewhere. -/
theorem Memory.listed_write (m : Memory) (a : Nat) (v : Byte) (c : Nat) :
    (m.write a v).listed c = if c = a then some v else m.listed c := by
  induction m with
  | nil => simp [Memory.write]
  | cons x m ih =>
    simp only [Memory.write]
    split
    · simp
    · split
      · rename_i h; subst h; simp only [Memory.listed_cons]; split <;> rfl
      · rename_i h; simp only [Memory.listed_cons, ih]
        split
        · rename_i h'; subst h'; simp [Ne.symm h]
        · rfl

/-- The cells of `zeros` are its addresses, all 0. -/
theorem Memory.listed_zeros (a n c : Nat) :
    (Memory.zeros a n).listed c = if a ≤ c ∧ c < a + n then some 0#8 else none := by
  induction n generalizing a with
  | zero => simp [Memory.zeros]
  | succ n ih =>
    simp only [Memory.zeros, Memory.listed_cons, ih]
    by_cases h : c = a
    · subst h; simp
    · simp only [h, if_false]; congr 1; simp; omega

/-- The canonical form of a list with a first cell: that cell lies below the next one, and the rest is canonical. -/
theorem Memory.wf_cons (x : Host.Cell) (m : Memory) :
    Memory.wf (x :: m) = true ↔ (∀ y ∈ m.head?, x.1 < y.1) ∧ Memory.wf m = true := by
  cases m <;> simp [Memory.wf]

/-- A write puts at the front the written cell or what was there. -/
theorem Memory.head?_write (m : Memory) (a : Nat) (v : Byte) :
    ∀ y ∈ (m.write a v).head?, y.1 = a ∨ ∃ x ∈ m.head?, x.1 = y.1 := by
  cases m with
  | nil => simp [Memory.write]
  | cons x m =>
    simp only [Memory.write]
    split <;> [skip; split] <;> simp

/-- A write keeps the canonical form. -/
theorem Memory.wf_write (m : Memory) (a : Nat) (v : Byte) (h : m.wf = true) : (m.write a v).wf = true := by
  induction m with
  | nil => rfl
  | cons x m ih =>
    obtain ⟨hx, hm⟩ := (Memory.wf_cons x m).1 h
    simp only [Memory.write]
    split
    · rename_i hlt
      exact (Memory.wf_cons _ _).2 ⟨by simpa using hlt, h⟩
    · rename_i hlt
      split
      · rename_i heq
        exact (Memory.wf_cons _ _).2 ⟨by simpa [heq] using hx, hm⟩
      · rename_i hne
        refine (Memory.wf_cons _ _).2 ⟨fun y hy => ?_, ih hm⟩
        rcases Memory.head?_write m a v y hy with hy | ⟨z, hz, hzy⟩
        · omega
        · have := hx z hz; omega

/-- Consecutive zeros are in canonical form. -/
theorem Memory.wf_zeros (a n : Nat) : (Memory.zeros a n).wf = true := by
  induction n generalizing a with
  | zero => rfl
  | succ n ih =>
    refine (Memory.wf_cons _ _).2 ⟨?_, ih _⟩
    cases n <;> simp [Memory.zeros]

/-! ### Arrays of pixels -/

@[simp] theorem Pixels.writePixel_before (k : Pixels) (i : Nat) (r g b : Byte) :
    (k.writePixel i r g b).before = k.before := rfl

@[simp] theorem Pixels.clear_before (n : Nat) (k : Pixels) : (k.clear n).before = k.before := rfl

/-- Beyond the array there is no byte. -/
theorem Pixels.read_beyond (n : Nat) (k : Pixels) (a : Nat) (h : 3 * n ≤ a) : k.read n a = none := by
  rw [Pixels.read, if_neg (by omega)]

/-- The bytes listed after a pixel write: the three channels at the pixel, what was listed elsewhere. -/
theorem Pixels.listed_writePixel (k : Pixels) (i : Nat) (r g b : Byte) (a : Nat) :
    (k.writePixel i r g b).cells.listed a =
      if a = 3 * i + 2 then some b
      else if a = 3 * i + 1 then some g
      else if a = 3 * i then some r else k.cells.listed a := by
  simp only [Pixels.writePixel, Memory.listed_write]

/-- The bytes listed after a clear: zeros on the array and nothing beyond it. -/
theorem Pixels.listed_clear (n : Nat) (k : Pixels) (a : Nat) :
    (k.clear n).cells.listed a = if a < 3 * n then some 0#8 else none := by
  simp [Pixels.clear, Memory.listed_zeros]

/-- A read after the write of a pixel of the array sees its three channels, and the old value elsewhere. -/
theorem Pixels.read_writePixel (n : Nat) (k : Pixels) (i : Nat) (r g b : Byte) (a : Nat) (hi : i < n) :
    (k.writePixel i r g b).read n a =
      if a = 3 * i + 2 then some b
      else if a = 3 * i + 1 then some g
      else if a = 3 * i then some r else k.read n a := by
  simp only [Pixels.read, Pixels.listed_writePixel, Pixels.unlisted, Pixels.writePixel_before]
  split_ifs <;> first | rfl | omega

/-- A read after a clear sees 0 on the array. -/
theorem Pixels.read_clear (n : Nat) (k : Pixels) (a : Nat) :
    (k.clear n).read n a = if a < 3 * n then some 0#8 else none := by
  simp only [Pixels.read, Pixels.listed_clear]
  split_ifs <;> rfl

/-- A pixel write keeps the canonical form. -/
theorem Pixels.wf_writePixel (k : Pixels) (i : Nat) (r g b : Byte) (h : k.cells.wf = true) :
    (k.writePixel i r g b).cells.wf = true :=
  Memory.wf_write _ _ _ (Memory.wf_write _ _ _ (Memory.wf_write _ _ _ h))

/-- A clear leaves the canonical form. -/
theorem Pixels.wf_clear (n : Nat) (k : Pixels) : (k.clear n).cells.wf = true := Memory.wf_zeros _ _

/-- The colour of a pixel of the array depends on its three bytes alone. -/
theorem Pixels.pixel_congr {n : Nat} {k k' : Pixels} {i : Nat}
    (h : ∀ a, 3 * i ≤ a → a < 3 * i + 3 → k.read n a = k'.read n a) : k.pixel n i = k'.pixel n i := by
  simp only [Pixels.pixel, h (3 * i) (by omega) (by omega), h (3 * i + 1) (by omega) (by omega),
    h (3 * i + 2) (by omega) (by omega)]

/-- A cleared pixel is dark. -/
theorem Pixels.pixel_clear (n : Nat) (k : Pixels) (i : Nat) (h : i < n) :
    (k.clear n).pixel n i = some (0#8, 0#8, 0#8) := by
  simp only [Pixels.pixel, Pixels.read_clear]
  rw [if_pos (by omega), if_pos (by omega), if_pos (by omega)]

/-- A written pixel has its colour, every other pixel the colour it had. -/
theorem Pixels.pixel_writePixel (n : Nat) (k : Pixels) (i j : Nat) (r g b : Byte) (hi : i < n) :
    (k.writePixel i r g b).pixel n j = if j = i then some (r, g, b) else k.pixel n j := by
  split
  · rename_i h; subst h
    simp [Pixels.pixel, Pixels.read_writePixel _ _ _ _ _ _ _ hi]
  · refine Pixels.pixel_congr fun a h1 h2 => ?_
    rw [Pixels.read_writePixel _ _ _ _ _ _ _ hi, if_neg (by omega), if_neg (by omega), if_neg (by omega)]

end Sys2Proof.Machine
end

