-- ==== Sys2Proof/Laws/State.lean ====
section
/-! SUPPORT. What each shared update leaves in each field of State, one lemma a field, so that no proof unfolds a record
update. -/

namespace Sys2Proof.Machine

@[simp] theorem State.emit_cfg (c : Command) (s : State) : (s.emit c).cfg = s.cfg := rfl
@[simp] theorem State.emit_mode (c : Command) (s : State) : (s.emit c).mode = s.mode := rfl
@[simp] theorem State.emit_progress (c : Command) (s : State) : (s.emit c).progress = s.progress := rfl
@[simp] theorem State.emit_hi (c : Command) (s : State) : (s.emit c).hi = s.hi := rfl
@[simp] theorem State.emit_lo (c : Command) (s : State) : (s.emit c).lo = s.lo := rfl
@[simp] theorem State.emit_count (c : Command) (s : State) : (s.emit c).count = s.count := rfl
@[simp] theorem State.emit_remaining (c : Command) (s : State) : (s.emit c).remaining = s.remaining := rfl
@[simp] theorem State.emit_writePos (c : Command) (s : State) : (s.emit c).writePos = s.writePos := rfl
@[simp] theorem State.emit_chan (c : Command) (s : State) : (s.emit c).chan = s.chan := rfl
@[simp] theorem State.emit_acc (c : Command) (s : State) : (s.emit c).acc = s.acc := rfl
@[simp] theorem State.emit_tNow (c : Command) (s : State) : (s.emit c).tNow = s.tNow := rfl
@[simp] theorem State.emit_tLastByte (c : Command) (s : State) : (s.emit c).tLastByte = s.tLastByte := rfl
@[simp] theorem State.emit_tLastAck (c : Command) (s : State) : (s.emit c).tLastAck = s.tLastAck := rfl
@[simp] theorem State.emit_sink (c : Command) (s : State) : (s.emit c).sink = s.sink.apply s.cfg.stripLen c := rfl
@[simp] theorem State.emit_link (c : Command) (s : State) : (s.emit c).link = s.link.apply s.cfg.ackBytes c := rfl
@[simp] theorem State.emit_out (c : Command) (s : State) : (s.emit c).out = s.out ++ [c] := rfl
@[simp] theorem State.emit_rxTake (c : Command) (s : State) : (s.emit c).rxTake = s.rxTake := rfl
@[simp] theorem State.emit_script (c : Command) (s : State) : (s.emit c).script = s.script := rfl
@[simp] theorem State.emit_slotNo (c : Command) (s : State) : (s.emit c).slotNo = s.slotNo := rfl

@[simp] theorem State.bytePrologue_cfg (s : State) : s.bytePrologue.cfg = s.cfg := rfl
@[simp] theorem State.bytePrologue_mode (s : State) : s.bytePrologue.mode = s.mode := rfl
@[simp] theorem State.bytePrologue_progress (s : State) : s.bytePrologue.progress = s.progress := rfl
@[simp] theorem State.bytePrologue_hi (s : State) : s.bytePrologue.hi = s.hi := rfl
@[simp] theorem State.bytePrologue_lo (s : State) : s.bytePrologue.lo = s.lo := rfl
@[simp] theorem State.bytePrologue_count (s : State) : s.bytePrologue.count = s.count := rfl
@[simp] theorem State.bytePrologue_remaining (s : State) : s.bytePrologue.remaining = s.remaining := rfl
@[simp] theorem State.bytePrologue_writePos (s : State) : s.bytePrologue.writePos = s.writePos := rfl
@[simp] theorem State.bytePrologue_chan (s : State) : s.bytePrologue.chan = s.chan := rfl
@[simp] theorem State.bytePrologue_acc (s : State) : s.bytePrologue.acc = s.acc := rfl
@[simp] theorem State.bytePrologue_tNow (s : State) : s.bytePrologue.tNow = s.tNow := rfl
@[simp] theorem State.bytePrologue_tLastByte (s : State) : s.bytePrologue.tLastByte = s.tNow := rfl
@[simp] theorem State.bytePrologue_tLastAck (s : State) :
    s.bytePrologue.tLastAck = if s.cfg.ackResetOnByte then s.tNow else s.tLastAck := rfl
@[simp] theorem State.bytePrologue_sink (s : State) : s.bytePrologue.sink = s.sink := rfl
@[simp] theorem State.bytePrologue_link (s : State) : s.bytePrologue.link = s.link := rfl
@[simp] theorem State.bytePrologue_out (s : State) : s.bytePrologue.out = s.out := rfl
@[simp] theorem State.bytePrologue_rxTake (s : State) : s.bytePrologue.rxTake = s.rxTake := rfl
@[simp] theorem State.bytePrologue_script (s : State) : s.bytePrologue.script = s.script := rfl
@[simp] theorem State.bytePrologue_slotNo (s : State) : s.bytePrologue.slotNo = s.slotNo := rfl

@[simp] theorem State.toScan_cfg (s : State) : s.toScan.cfg = s.cfg := rfl
@[simp] theorem State.toScan_mode (s : State) : s.toScan.mode = .sync := rfl
@[simp] theorem State.toScan_progress (s : State) : s.toScan.progress = 0#8 := rfl
@[simp] theorem State.toScan_hi (s : State) : s.toScan.hi = s.hi := rfl
@[simp] theorem State.toScan_lo (s : State) : s.toScan.lo = s.lo := rfl
@[simp] theorem State.toScan_count (s : State) : s.toScan.count = s.count := rfl
@[simp] theorem State.toScan_remaining (s : State) : s.toScan.remaining = s.remaining := rfl
@[simp] theorem State.toScan_writePos (s : State) : s.toScan.writePos = s.writePos := rfl
@[simp] theorem State.toScan_chan (s : State) : s.toScan.chan = s.chan := rfl
@[simp] theorem State.toScan_acc (s : State) : s.toScan.acc = s.acc := rfl
@[simp] theorem State.toScan_tNow (s : State) : s.toScan.tNow = s.tNow := rfl
@[simp] theorem State.toScan_tLastByte (s : State) : s.toScan.tLastByte = s.tLastByte := rfl
@[simp] theorem State.toScan_tLastAck (s : State) : s.toScan.tLastAck = s.tLastAck := rfl
@[simp] theorem State.toScan_sink (s : State) : s.toScan.sink = s.sink := rfl
@[simp] theorem State.toScan_link (s : State) : s.toScan.link = s.link := rfl
@[simp] theorem State.toScan_out (s : State) : s.toScan.out = s.out := rfl
@[simp] theorem State.toScan_rxTake (s : State) : s.toScan.rxTake = s.rxTake := rfl
@[simp] theorem State.toScan_script (s : State) : s.toScan.script = s.script := rfl
@[simp] theorem State.toScan_slotNo (s : State) : s.toScan.slotNo = s.slotNo := rfl

@[simp] theorem State.countDown_cfg (s : State) : s.countDown.cfg = s.cfg := rfl
@[simp] theorem State.countDown_mode (s : State) : s.countDown.mode = s.mode := rfl
@[simp] theorem State.countDown_progress (s : State) : s.countDown.progress = s.progress := rfl
@[simp] theorem State.countDown_hi (s : State) : s.countDown.hi = s.hi := rfl
@[simp] theorem State.countDown_lo (s : State) : s.countDown.lo = s.lo := rfl
@[simp] theorem State.countDown_count (s : State) : s.countDown.count = s.count := rfl
@[simp] theorem State.countDown_remaining (s : State) :
    s.countDown.remaining = if s.remaining = 0#18 then 0#18 else s.remaining - 1#18 := rfl
@[simp] theorem State.countDown_writePos (s : State) : s.countDown.writePos = s.writePos := rfl
@[simp] theorem State.countDown_chan (s : State) : s.countDown.chan = s.chan := rfl
@[simp] theorem State.countDown_acc (s : State) : s.countDown.acc = s.acc := rfl
@[simp] theorem State.countDown_tNow (s : State) : s.countDown.tNow = s.tNow := rfl
@[simp] theorem State.countDown_tLastByte (s : State) : s.countDown.tLastByte = s.tLastByte := rfl
@[simp] theorem State.countDown_tLastAck (s : State) : s.countDown.tLastAck = s.tLastAck := rfl
@[simp] theorem State.countDown_sink (s : State) : s.countDown.sink = s.sink := rfl
@[simp] theorem State.countDown_link (s : State) : s.countDown.link = s.link := rfl
@[simp] theorem State.countDown_out (s : State) : s.countDown.out = s.out := rfl
@[simp] theorem State.countDown_rxTake (s : State) : s.countDown.rxTake = s.rxTake := rfl
@[simp] theorem State.countDown_script (s : State) : s.countDown.script = s.script := rfl
@[simp] theorem State.countDown_slotNo (s : State) : s.countDown.slotNo = s.slotNo := rfl

@[simp] theorem State.endFrame_cfg (s : State) : s.endFrame.cfg = s.cfg := by unfold State.endFrame; split <;> rfl
@[simp] theorem State.endFrame_mode (s : State) : s.endFrame.mode = .sync := by unfold State.endFrame; split <;> rfl
@[simp] theorem State.endFrame_progress (s : State) :
    s.endFrame.progress = 0#8 := by unfold State.endFrame; split <;> rfl
@[simp] theorem State.endFrame_hi (s : State) : s.endFrame.hi = s.hi := by unfold State.endFrame; split <;> rfl
@[simp] theorem State.endFrame_lo (s : State) : s.endFrame.lo = s.lo := by unfold State.endFrame; split <;> rfl
@[simp] theorem State.endFrame_count (s : State) :
    s.endFrame.count = s.count := by unfold State.endFrame; split <;> rfl
@[simp] theorem State.endFrame_remaining (s : State) :
    s.endFrame.remaining = s.remaining := by unfold State.endFrame; split <;> rfl
@[simp] theorem State.endFrame_writePos (s : State) :
    s.endFrame.writePos = s.writePos := by unfold State.endFrame; split <;> rfl
@[simp] theorem State.endFrame_chan (s : State) : s.endFrame.chan = s.chan := by unfold State.endFrame; split <;> rfl
@[simp] theorem State.endFrame_acc (s : State) : s.endFrame.acc = s.acc := by unfold State.endFrame; split <;> rfl
@[simp] theorem State.endFrame_tNow (s : State) : s.endFrame.tNow = s.tNow := by unfold State.endFrame; split <;> rfl
@[simp] theorem State.endFrame_tLastByte (s : State) :
    s.endFrame.tLastByte = s.tLastByte := by unfold State.endFrame; split <;> rfl
@[simp] theorem State.endFrame_tLastAck (s : State) :
    s.endFrame.tLastAck = s.tLastAck := by unfold State.endFrame; split <;> rfl
@[simp] theorem State.endFrame_sink (s : State) : s.endFrame.sink = { s.sink with shown := s.sink.buf } := by
  unfold State.endFrame; split <;> simp [Sink.apply]
@[simp] theorem State.endFrame_link (s : State) :
    s.endFrame.link = if s.cfg.flushOnCommit then { s.link with q := [] } else s.link := by
  unfold State.endFrame; split <;> simp [Link.apply, *]
@[simp] theorem State.endFrame_out (s : State) :
    s.endFrame.out = s.out ++ if s.cfg.flushOnCommit then [.commit, .flush] else [.commit] := by
  unfold State.endFrame; split <;> simp [*]
@[simp] theorem State.endFrame_rxTake (s : State) :
    s.endFrame.rxTake = s.rxTake := by unfold State.endFrame; split <;> rfl
@[simp] theorem State.endFrame_script (s : State) :
    s.endFrame.script = s.script := by unfold State.endFrame; split <;> rfl
@[simp] theorem State.endFrame_slotNo (s : State) :
    s.endFrame.slotNo = s.slotNo := by unfold State.endFrame; split <;> rfl

@[simp] theorem State.acknowledge_cfg (s : State) : s.acknowledge.cfg = s.cfg := rfl
@[simp] theorem State.acknowledge_mode (s : State) : s.acknowledge.mode = s.mode := rfl
@[simp] theorem State.acknowledge_progress (s : State) : s.acknowledge.progress = s.progress := rfl
@[simp] theorem State.acknowledge_hi (s : State) : s.acknowledge.hi = s.hi := rfl
@[simp] theorem State.acknowledge_lo (s : State) : s.acknowledge.lo = s.lo := rfl
@[simp] theorem State.acknowledge_count (s : State) : s.acknowledge.count = s.count := rfl
@[simp] theorem State.acknowledge_remaining (s : State) : s.acknowledge.remaining = s.remaining := rfl
@[simp] theorem State.acknowledge_writePos (s : State) : s.acknowledge.writePos = s.writePos := rfl
@[simp] theorem State.acknowledge_chan (s : State) : s.acknowledge.chan = s.chan := rfl
@[simp] theorem State.acknowledge_acc (s : State) : s.acknowledge.acc = s.acc := rfl
@[simp] theorem State.acknowledge_tNow (s : State) : s.acknowledge.tNow = s.tNow := rfl
@[simp] theorem State.acknowledge_tLastByte (s : State) : s.acknowledge.tLastByte = s.tLastByte := rfl
@[simp] theorem State.acknowledge_tLastAck (s : State) : s.acknowledge.tLastAck = s.tNow := rfl
@[simp] theorem State.acknowledge_sink (s : State) : s.acknowledge.sink = s.sink := rfl
@[simp] theorem State.acknowledge_link (s : State) :
    s.acknowledge.link = { s.link with sent := s.link.sent ++ s.cfg.ackBytes } := rfl
@[simp] theorem State.acknowledge_out (s : State) : s.acknowledge.out = s.out ++ [.ack] := rfl
@[simp] theorem State.acknowledge_rxTake (s : State) : s.acknowledge.rxTake = s.rxTake := rfl
@[simp] theorem State.acknowledge_script (s : State) : s.acknowledge.script = s.script := rfl
@[simp] theorem State.acknowledge_slotNo (s : State) : s.acknowledge.slotNo = s.slotNo := rfl

@[simp] theorem State.blank_cfg (s : State) : s.blank.cfg = s.cfg := rfl
@[simp] theorem State.blank_mode (s : State) : s.blank.mode = .sync := rfl
@[simp] theorem State.blank_progress (s : State) : s.blank.progress = 0#8 := rfl
@[simp] theorem State.blank_hi (s : State) : s.blank.hi = s.hi := rfl
@[simp] theorem State.blank_lo (s : State) : s.blank.lo = s.lo := rfl
@[simp] theorem State.blank_count (s : State) : s.blank.count = s.count := rfl
@[simp] theorem State.blank_remaining (s : State) : s.blank.remaining = s.remaining := rfl
@[simp] theorem State.blank_writePos (s : State) : s.blank.writePos = s.writePos := rfl
@[simp] theorem State.blank_chan (s : State) : s.blank.chan = s.chan := rfl
@[simp] theorem State.blank_acc (s : State) : s.blank.acc = s.acc := rfl
@[simp] theorem State.blank_tNow (s : State) : s.blank.tNow = s.tNow := rfl
@[simp] theorem State.blank_tLastByte (s : State) : s.blank.tLastByte = s.tNow := rfl
@[simp] theorem State.blank_tLastAck (s : State) : s.blank.tLastAck = s.tLastAck := rfl
@[simp] theorem State.blank_sink (s : State) :
    s.blank.sink = ⟨s.sink.buf.clear s.cfg.stripLen, s.sink.buf.clear s.cfg.stripLen⟩ := rfl
@[simp] theorem State.blank_link (s : State) : s.blank.link = s.link := rfl
@[simp] theorem State.blank_out (s : State) : s.blank.out = s.out ++ [.clear] ++ [.commit] := rfl
@[simp] theorem State.blank_rxTake (s : State) : s.blank.rxTake = s.rxTake := rfl
@[simp] theorem State.blank_script (s : State) : s.blank.script = s.script := rfl
@[simp] theorem State.blank_slotNo (s : State) : s.blank.slotNo = s.slotNo := rfl

@[simp] theorem State.completePixel_cfg (b : Byte) (s : State) : (s.completePixel b).cfg = s.cfg := rfl
@[simp] theorem State.completePixel_mode (b : Byte) (s : State) : (s.completePixel b).mode = s.mode := rfl
@[simp] theorem State.completePixel_progress (b : Byte) (s : State) : (s.completePixel b).progress = s.progress := rfl
@[simp] theorem State.completePixel_hi (b : Byte) (s : State) : (s.completePixel b).hi = s.hi := rfl
@[simp] theorem State.completePixel_lo (b : Byte) (s : State) : (s.completePixel b).lo = s.lo := rfl
@[simp] theorem State.completePixel_count (b : Byte) (s : State) : (s.completePixel b).count = s.count := rfl
@[simp] theorem State.completePixel_remaining (b : Byte) (s : State) :
    (s.completePixel b).remaining = s.remaining := rfl
@[simp] theorem State.completePixel_writePos (b : Byte) (s : State) :
    (s.completePixel b).writePos = s.writePos + 1#17 := rfl
@[simp] theorem State.completePixel_chan (b : Byte) (s : State) : (s.completePixel b).chan = 0#2 := rfl
@[simp] theorem State.completePixel_acc (b : Byte) (s : State) :
    (s.completePixel b).acc = { s.acc with blue := b } := rfl
@[simp] theorem State.completePixel_tNow (b : Byte) (s : State) : (s.completePixel b).tNow = s.tNow := rfl
@[simp] theorem State.completePixel_tLastByte (b : Byte) (s : State) :
    (s.completePixel b).tLastByte = s.tLastByte := rfl
@[simp] theorem State.completePixel_tLastAck (b : Byte) (s : State) : (s.completePixel b).tLastAck = s.tLastAck := rfl
@[simp] theorem State.completePixel_sink (b : Byte) (s : State) :
    (s.completePixel b).sink = s.sink.apply s.cfg.stripLen (.set s.pixelIndex s.acc.red s.acc.green b) := rfl
@[simp] theorem State.completePixel_link (b : Byte) (s : State) : (s.completePixel b).link = s.link := rfl
@[simp] theorem State.completePixel_out (b : Byte) (s : State) :
    (s.completePixel b).out = s.out ++ [.set s.pixelIndex s.acc.red s.acc.green b] := rfl
@[simp] theorem State.completePixel_rxTake (b : Byte) (s : State) : (s.completePixel b).rxTake = s.rxTake := rfl
@[simp] theorem State.completePixel_script (b : Byte) (s : State) : (s.completePixel b).script = s.script := rfl
@[simp] theorem State.completePixel_slotNo (b : Byte) (s : State) : (s.completePixel b).slotNo = s.slotNo := rfl

@[simp] theorem State.opened_cfg (s : State) : s.opened.cfg = s.cfg := rfl
@[simp] theorem State.opened_mode (s : State) : s.opened.mode = s.mode := rfl
@[simp] theorem State.opened_progress (s : State) : s.opened.progress = s.progress := rfl
@[simp] theorem State.opened_hi (s : State) : s.opened.hi = s.hi := rfl
@[simp] theorem State.opened_lo (s : State) : s.opened.lo = s.lo := rfl
@[simp] theorem State.opened_count (s : State) : s.opened.count = s.count := rfl
@[simp] theorem State.opened_remaining (s : State) : s.opened.remaining = s.remaining := rfl
@[simp] theorem State.opened_writePos (s : State) : s.opened.writePos = s.writePos := rfl
@[simp] theorem State.opened_chan (s : State) : s.opened.chan = s.chan := rfl
@[simp] theorem State.opened_acc (s : State) : s.opened.acc = s.acc := rfl
@[simp] theorem State.opened_tNow (s : State) : s.opened.tNow = s.tNow := rfl
@[simp] theorem State.opened_tLastByte (s : State) : s.opened.tLastByte = s.tLastByte := rfl
@[simp] theorem State.opened_tLastAck (s : State) : s.opened.tLastAck = s.tLastAck := rfl
@[simp] theorem State.opened_sink (s : State) : s.opened.sink = s.sink := rfl
@[simp] theorem State.opened_link (s : State) :
    s.opened.link = { s.link with q := s.link.q ++ s.input.arrivals } := rfl
@[simp] theorem State.opened_out (s : State) : s.opened.out = [] := rfl
@[simp] theorem State.opened_rxTake (s : State) : s.opened.rxTake = false := rfl
@[simp] theorem State.opened_script (s : State) : s.opened.script = s.script.tail := rfl
@[simp] theorem State.opened_slotNo (s : State) : s.opened.slotNo = s.slotNo + 1 := rfl

@[simp] theorem State.loadReset_cfg (t : Stamp) (s : State) : (s.loadReset t).cfg = s.cfg := rfl
@[simp] theorem State.loadReset_mode (t : Stamp) (s : State) : (s.loadReset t).mode = .sync := rfl
@[simp] theorem State.loadReset_progress (t : Stamp) (s : State) : (s.loadReset t).progress = 0#8 := rfl
@[simp] theorem State.loadReset_hi (t : Stamp) (s : State) : (s.loadReset t).hi = 0#8 := rfl
@[simp] theorem State.loadReset_lo (t : Stamp) (s : State) : (s.loadReset t).lo = 0#8 := rfl
@[simp] theorem State.loadReset_count (t : Stamp) (s : State) : (s.loadReset t).count = 0#16 := rfl
@[simp] theorem State.loadReset_remaining (t : Stamp) (s : State) : (s.loadReset t).remaining = 0#18 := rfl
@[simp] theorem State.loadReset_writePos (t : Stamp) (s : State) : (s.loadReset t).writePos = 0#17 := rfl
@[simp] theorem State.loadReset_chan (t : Stamp) (s : State) : (s.loadReset t).chan = 0#2 := rfl
@[simp] theorem State.loadReset_acc (t : Stamp) (s : State) : (s.loadReset t).acc = ⟨0#8, 0#8, 0#8⟩ := rfl
@[simp] theorem State.loadReset_tNow (t : Stamp) (s : State) : (s.loadReset t).tNow = t := rfl
@[simp] theorem State.loadReset_tLastByte (t : Stamp) (s : State) : (s.loadReset t).tLastByte = t := rfl
@[simp] theorem State.loadReset_tLastAck (t : Stamp) (s : State) : (s.loadReset t).tLastAck = t := rfl
@[simp] theorem State.loadReset_sink (t : Stamp) (s : State) : (s.loadReset t).sink = s.sink := rfl
@[simp] theorem State.loadReset_link (t : Stamp) (s : State) : (s.loadReset t).link = s.link := rfl
@[simp] theorem State.loadReset_out (t : Stamp) (s : State) : (s.loadReset t).out = s.out := rfl
@[simp] theorem State.loadReset_rxTake (t : Stamp) (s : State) : (s.loadReset t).rxTake = s.rxTake := rfl
@[simp] theorem State.loadReset_script (t : Stamp) (s : State) : (s.loadReset t).script = s.script := rfl
@[simp] theorem State.loadReset_slotNo (t : Stamp) (s : State) : (s.loadReset t).slotNo = s.slotNo := rfl

@[simp] theorem State.sampled_cfg (s : State) : s.sampled.cfg = s.cfg := rfl
@[simp] theorem State.sampled_mode (s : State) : s.sampled.mode = s.mode := rfl
@[simp] theorem State.sampled_progress (s : State) : s.sampled.progress = s.progress := rfl
@[simp] theorem State.sampled_hi (s : State) : s.sampled.hi = s.hi := rfl
@[simp] theorem State.sampled_lo (s : State) : s.sampled.lo = s.lo := rfl
@[simp] theorem State.sampled_count (s : State) : s.sampled.count = s.count := rfl
@[simp] theorem State.sampled_remaining (s : State) : s.sampled.remaining = s.remaining := rfl
@[simp] theorem State.sampled_writePos (s : State) : s.sampled.writePos = s.writePos := rfl
@[simp] theorem State.sampled_chan (s : State) : s.sampled.chan = s.chan := rfl
@[simp] theorem State.sampled_acc (s : State) : s.sampled.acc = s.acc := rfl
@[simp] theorem State.sampled_tNow (s : State) : s.sampled.tNow = s.input.time := rfl
@[simp] theorem State.sampled_tLastByte (s : State) : s.sampled.tLastByte = s.tLastByte := rfl
@[simp] theorem State.sampled_tLastAck (s : State) : s.sampled.tLastAck = s.tLastAck := rfl
@[simp] theorem State.sampled_sink (s : State) : s.sampled.sink = s.sink := rfl
@[simp] theorem State.sampled_link (s : State) :
    s.sampled.link = { s.link with q := s.link.q ++ s.input.arrivals } := rfl
@[simp] theorem State.sampled_out (s : State) : s.sampled.out = [] := rfl
@[simp] theorem State.sampled_rxTake (s : State) : s.sampled.rxTake = false := rfl
@[simp] theorem State.sampled_script (s : State) : s.sampled.script = s.script.tail := rfl
@[simp] theorem State.sampled_slotNo (s : State) : s.sampled.slotNo = s.slotNo + 1 := rfl

@[simp] theorem State.prepared_cfg (s : State) : s.prepared.cfg = s.cfg := rfl
@[simp] theorem State.prepared_mode (s : State) : s.prepared.mode = s.mode := rfl
@[simp] theorem State.prepared_progress (s : State) : s.prepared.progress = s.progress := rfl
@[simp] theorem State.prepared_hi (s : State) : s.prepared.hi = s.hi := rfl
@[simp] theorem State.prepared_lo (s : State) : s.prepared.lo = s.lo := rfl
@[simp] theorem State.prepared_count (s : State) : s.prepared.count = s.count := rfl
@[simp] theorem State.prepared_remaining (s : State) : s.prepared.remaining = s.remaining := rfl
@[simp] theorem State.prepared_writePos (s : State) : s.prepared.writePos = s.writePos := rfl
@[simp] theorem State.prepared_chan (s : State) : s.prepared.chan = s.chan := rfl
@[simp] theorem State.prepared_acc (s : State) : s.prepared.acc = s.acc := rfl
@[simp] theorem State.prepared_tNow (s : State) : s.prepared.tNow = s.input.time := rfl
@[simp] theorem State.prepared_tLastByte (s : State) : s.prepared.tLastByte = s.tLastByte := rfl
@[simp] theorem State.prepared_tLastAck (s : State) : s.prepared.tLastAck = s.tLastAck := rfl
@[simp] theorem State.prepared_sink (s : State) : s.prepared.sink = s.sink := rfl
@[simp] theorem State.prepared_link (s : State) :
    s.prepared.link = { s.link with q := (s.link.q ++ s.input.arrivals).tail } := rfl
@[simp] theorem State.prepared_out (s : State) : s.prepared.out = [] := rfl
@[simp] theorem State.prepared_rxTake (s : State) : s.prepared.rxTake = s.rx.isSome := rfl
@[simp] theorem State.prepared_script (s : State) : s.prepared.script = s.script.tail := rfl
@[simp] theorem State.prepared_slotNo (s : State) : s.prepared.slotNo = s.slotNo + 1 := rfl

@[simp] theorem State.frameEndTail_cfg (s : State) : s.frameEndTail.cfg = s.cfg := by
  unfold State.frameEndTail; split <;> simp
@[simp] theorem State.frameEndTail_hi (s : State) : s.frameEndTail.hi = s.hi := by
  unfold State.frameEndTail; split <;> simp
@[simp] theorem State.frameEndTail_lo (s : State) : s.frameEndTail.lo = s.lo := by
  unfold State.frameEndTail; split <;> simp
@[simp] theorem State.frameEndTail_count (s : State) : s.frameEndTail.count = s.count := by
  unfold State.frameEndTail; split <;> simp
@[simp] theorem State.frameEndTail_writePos (s : State) : s.frameEndTail.writePos = s.writePos := by
  unfold State.frameEndTail; split <;> simp
@[simp] theorem State.frameEndTail_chan (s : State) : s.frameEndTail.chan = s.chan := by
  unfold State.frameEndTail; split <;> simp
@[simp] theorem State.frameEndTail_acc (s : State) : s.frameEndTail.acc = s.acc := by
  unfold State.frameEndTail; split <;> simp
@[simp] theorem State.frameEndTail_tNow (s : State) : s.frameEndTail.tNow = s.tNow := by
  unfold State.frameEndTail; split <;> simp
@[simp] theorem State.frameEndTail_tLastByte (s : State) : s.frameEndTail.tLastByte = s.tLastByte := by
  unfold State.frameEndTail; split <;> simp
@[simp] theorem State.frameEndTail_tLastAck (s : State) : s.frameEndTail.tLastAck = s.tLastAck := by
  unfold State.frameEndTail; split <;> simp
@[simp] theorem State.frameEndTail_rxTake (s : State) : s.frameEndTail.rxTake = s.rxTake := by
  unfold State.frameEndTail; split <;> simp
@[simp] theorem State.frameEndTail_script (s : State) : s.frameEndTail.script = s.script := by
  unfold State.frameEndTail; split <;> simp
@[simp] theorem State.frameEndTail_slotNo (s : State) : s.frameEndTail.slotNo = s.slotNo := by
  unfold State.frameEndTail; split <;> simp
@[simp] theorem State.frameEndTail_remaining (s : State) :
    s.frameEndTail.remaining = s.countDown.remaining := by
  unfold State.frameEndTail; split <;> simp
@[simp] theorem State.frameEndTail_buf (s : State) : s.frameEndTail.sink.buf = s.sink.buf := by
  unfold State.frameEndTail; split <;> simp
@[simp] theorem State.frameEndTail_sent (s : State) : s.frameEndTail.link.sent = s.link.sent := by
  unfold State.frameEndTail; split
  · simp only [State.endFrame_link, State.countDown_link]; split <;> rfl
  · simp

end Sys2Proof.Machine
end

