-- ==== Sys2Proof/Laws/Ops.lean ====
section
/-! SUPPORT. One lemma for each shared operation that says once what it does. -/

namespace Sys2Proof.Machine

/-- What a command leaves in the buffer at every address. -/
theorem Sink.read_buf_apply (n : Nat) (c : Command) (k : Sink) (a : Nat) :
    (k.apply n c).buf.read n a =
      match c with
      | .clear => if a < 3 * n then some 0#8 else none
      | .set idx r g b =>
        if idx.toNat < n then
          if a = 3 * idx.toNat + 2 then some b
          else if a = 3 * idx.toNat + 1 then some g
          else if a = 3 * idx.toNat then some r else k.buf.read n a
        else k.buf.read n a
      | .ack => k.buf.read n a
      | .commit => k.buf.read n a
      | .flush => k.buf.read n a := by
  cases c <;> simp only [Sink.apply, Pixels.read_clear]
  split
  · rename_i h; exact Pixels.read_writePixel _ _ _ _ _ _ _ h
  · rfl

/-- Only `Commit` changes what is shown, and it shows the buffer. -/
theorem Sink.shown_apply (n : Nat) (c : Command) (k : Sink) :
    (k.apply n c).shown = if c = .commit then k.buf else k.shown := by
  cases c <;> simp [Sink.apply]
  split <;> rfl

/-- Every command keeps both arrays in canonical form. -/
theorem Sink.wf_apply (n : Nat) (c : Command) (k : Sink) (hb : k.buf.cells.wf = true) (hs : k.shown.cells.wf = true) :
    (k.apply n c).buf.cells.wf = true ∧ (k.apply n c).shown.cells.wf = true := by
  cases c with
  | ack => exact ⟨hb, hs⟩
  | clear => exact ⟨Pixels.wf_clear n _, hs⟩
  | set idx r g b =>
    simp only [Sink.apply]
    split
    · exact ⟨Pixels.wf_writePixel _ _ _ _ _ hb, hs⟩
    · exact ⟨hb, hs⟩
  | commit => exact ⟨hb, hb⟩
  | flush => exact ⟨hb, hs⟩

/-- Counting down subtracts 1, and stays at 0 (R146, R110). -/
theorem State.countDown_toNat (s : State) : s.countDown.remaining.toNat = s.remaining.toNat - 1 := by
  simp only [State.countDown_remaining]
  split
  · rename_i h; rw [h]; rfl
  · bv_omega

/-- Counting down reaches 0 exactly from 0 and 1, the values with dispatch bit `Z` (R146). -/
theorem State.countDown_eq_zero_iff (s : State) : s.countDown.remaining = 0#18 ↔ s.remaining.toNat ≤ 1 := by
  rw [← BitVec.toNat_inj, State.countDown_toNat, BitVec.toNat_ofNat]
  omega

/-- The tail with more payload to come: it counts down and does nothing else (R146). -/
theorem State.frameEndTail_of_more (s : State) (h : 1 < s.remaining.toNat) :
    s.frameEndTail = { s with remaining := s.remaining - 1#18 } := by
  have h0 : ¬ s.countDown.remaining = 0#18 := by rw [State.countDown_eq_zero_iff]; omega
  have h1 : s.remaining ≠ 0#18 := by intro h'; simp [h'] at h
  simp only [State.frameEndTail, h0, if_false]
  simp only [State.countDown, h1, if_false]

/-- The tail on the last payload byte: `Commit`, `Flush` with FLUSH_ON_COMMIT, back to scan mode (R146). -/
theorem State.frameEndTail_of_last (s : State) (h : s.remaining.toNat ≤ 1) :
    s.frameEndTail =
      { s with
        remaining := 0#18
        mode := .sync
        progress := 0#8
        sink := ⟨s.sink.buf, s.sink.buf⟩
        link := if s.cfg.flushOnCommit then { s.link with q := [] } else s.link
        out := s.out ++ .commit :: (if s.cfg.flushOnCommit then [.flush] else []) } := by
  have h0 := (State.countDown_eq_zero_iff s).2 h
  have h1 := h0
  simp only [State.countDown_remaining] at h1
  simp only [State.frameEndTail, h0, if_true]
  simp only [State.endFrame, State.countDown, h1]
  by_cases hf : s.cfg.flushOnCommit = true <;> simp [hf, State.emit, State.toScan, Sink.apply, Link.apply]

/-- A completed pixel on the strip stays on the strip (R68, R69). -/
theorem stripIndex_lt (cfg : Config) (p : Nat) (h : p < cfg.stripLen) : stripIndex cfg p < cfg.stripLen := by
  unfold stripIndex; split <;> omega

/-- The index of a position on a strip within its bounds fits the 16-bit `sink_idx` (R68). -/
theorem State.pixelIndex_toNat (s : State) (hn : s.cfg.stripLen ≤ 65536) (h : s.writePos.toNat < s.cfg.stripLen) :
    s.pixelIndex.toNat = stripIndex s.cfg s.writePos.toNat := by
  have := stripIndex_lt s.cfg _ h
  simp only [State.pixelIndex, BitVec.toNat_ofNat]
  omega

/-- A completed pixel on the strip is written to the buffer at its index (R143, R68). -/
theorem State.completePixel_on_strip (s : State) (b : Byte) (hn : s.cfg.stripLen ≤ 65536)
    (hw : s.writePos.toNat < s.cfg.stripLen) :
    s.completePixel b =
      { s with
        acc := { s.acc with blue := b }
        writePos := s.writePos + 1#17
        chan := 0#2
        sink := { s.sink with buf := s.sink.buf.writePixel s.pixelIndex.toNat s.acc.red s.acc.green b }
        out := s.out ++ [.set s.pixelIndex s.acc.red s.acc.green b] } := by
  have h := stripIndex_lt s.cfg _ hw
  rw [← State.pixelIndex_toNat s hn hw] at h
  simp only [State.completePixel, State.emit, Sink.apply, Link.apply, h, if_true]

/-- The acknowledgment (R162). -/
theorem State.acknowledge_eq (s : State) :
    s.acknowledge =
      { s with
        tLastAck := s.tNow
        link := { s.link with sent := s.link.sent ++ s.cfg.ackBytes }
        out := s.out ++ [.ack] } := rfl

/-- The blanking: both arrays cleared, back to scan mode, the inactivity timer restarted (R163). -/
theorem State.blank_eq (s : State) :
    s.blank =
      { s with
        mode := .sync
        progress := 0#8
        tLastByte := s.tNow
        sink := ⟨s.sink.buf.clear s.cfg.stripLen, s.sink.buf.clear s.cfg.stripLen⟩
        out := s.out ++ [.clear, .commit] } := by
  simp [State.blank, State.emit, State.toScan, Sink.apply, Link.apply]

/-- The count field is exact (R93). -/
theorem countField_toNat (hi lo : Byte) : (countField hi lo).toNat = 256 * hi.toNat + lo.toNat := by
  have := hi.isLt; have := lo.isLt
  simp only [countField, BitVec.toNat_ofNat]; omega

/-- The payload length is exact: neither the sum nor the product wraps (R94). -/
theorem payloadLength_toNat (c : BitVec 16) : (payloadLength c).toNat = 3 * (c.toNat + 1) := by
  have := c.isLt
  simp only [payloadLength, bytesPerPixel, BitVec.toNat_ofNat]; omega

/-- The bounds of runnable parameters (R6). -/
theorem runnable_iff (c : Config) :
    c.runnable = true ↔ 1 ≤ c.stripLen ∧ c.stripLen ≤ 65536 ∧ 1 ≤ c.magic.length ∧ c.magic.length ≤ 253 := by
  simp [Config.runnable, and_assoc]

end Sys2Proof.Machine
end

