-- ==== Sys2Proof/Laws/PerInstr.lean ====
section
/-! SUPPORT. The per-instruction family EncodesToOwnRow: the dispatch word an instruction encodes to is selected by the
instruction's own row of the opcode table and by no other (spec/30_encoding.md R102, R104). -/

namespace Sys2Proof.Laws.EncodesToOwnRow

/-- The rows that select the first word of the encoding are the instruction's row alone. -/
def Statement (i : Instr) : Prop :=
  opcodeTable.filter (fun r => r.selects ((encode i).headD 0#8)) = [i.row]

/-- The operand plays no part: it is enough to look at one instruction of the row. -/
theorem of_row {i : Instr} (j : Instr) (hij : i.row = j.row)
    (hj : opcodeTable.filter (fun r => r.selects j.row.pattern) = [j.row]) : Statement i := by
  have : (encode i).headD 0#8 = j.row.pattern := by simp [encode, encodeWith, hij]
  rw [Statement, this, hj, hij]

theorem syncHit (b : Byte) : Statement (.syncHit b) := of_row (.syncHit 0#8) rfl (by decide)

theorem syncMiss (b : Byte) : Statement (.syncMiss b) := of_row (.syncMiss 0#8) rfl (by decide)

theorem hdrHi (b : Byte) : Statement (.hdrHi b) := of_row (.hdrHi 0#8) rfl (by decide)

theorem hdrLo (b : Byte) : Statement (.hdrLo b) := of_row (.hdrLo 0#8) rfl (by decide)

theorem hdrOk (b : Byte) : Statement (.hdrOk b) := of_row (.hdrOk 0#8) rfl (by decide)

theorem hdrBad (b : Byte) : Statement (.hdrBad b) := of_row (.hdrBad 0#8) rfl (by decide)

theorem payR (b : Byte) : Statement (.payR b) := of_row (.payR 0#8) rfl (by decide)

theorem payG (b : Byte) : Statement (.payG b) := of_row (.payG 0#8) rfl (by decide)

theorem payB (b : Byte) : Statement (.payB b) := of_row (.payB 0#8) rfl (by decide)

theorem payBLast (b : Byte) : Statement (.payBLast b) := of_row (.payBLast 0#8) rfl (by decide)

theorem paySkip (b : Byte) : Statement (.paySkip b) := of_row (.paySkip 0#8) rfl (by decide)

theorem paySkipLast (b : Byte) : Statement (.paySkipLast b) := of_row (.paySkipLast 0#8) rfl (by decide)

theorem wdgIdle : Statement .wdgIdle := of_row .wdgIdle rfl (by decide)

theorem wdgBlank : Statement .wdgBlank := of_row .wdgBlank rfl (by decide)

theorem wdgAck : Statement .wdgAck := of_row .wdgAck rfl (by decide)

theorem wdgAckblank : Statement .wdgAckblank := of_row .wdgAckblank rfl (by decide)

end Sys2Proof.Laws.EncodesToOwnRow
end

