-- ==== Sys2Proof/Laws/Step.lean ====
section
/-! SUPPORT. What a step can do, said once; and that the inputs of a run follow one another. -/

namespace Sys2Proof.Machine

/-- The input of the edge after this one. -/
@[simp] theorem State.inputAt_opened (s : State) (k : Nat) : s.opened.inputAt k = s.inputAt (k + 1) := by
  simp only [State.inputAt, State.opened_script, State.opened_slotNo]
  cases s.script <;> simp [Nat.add_comm, Nat.add_left_comm]

/-- The inputs to come depend on the script and the edge number alone. -/
theorem State.inputAt_congr {s t : State} (hs : t.script = s.script) (hn : t.slotNo = s.slotNo) (k : Nat) :
    t.inputAt k = s.inputAt k := by
  simp only [State.inputAt, hs, hn]

/-- The inputs after an edge that took one input. -/
theorem State.inputAt_of_moved {s t : State} (hs : t.script = s.script.tail) (hn : t.slotNo = s.slotNo + 1) (k : Nat) :
    t.inputAt k = s.inputAt (k + 1) := by
  rw [← State.inputAt_opened]
  exact State.inputAt_congr (s := s.opened) hs hn k

/-- The poll's answer is the head of the queue with the arrivals at its tail (R70, R71). -/
theorem State.rx_eq (s : State) : s.rx = (s.link.q ++ s.input.arrivals).head? := rfl

/-- The operation a step selects, from the bits of its dispatch word (R101). -/
theorem State.fetched_eq (s : State) :
    s.fetched = decodeBits (s.sampled.dispatchBits s.rx) (s.rx.getD 0#8) := by
  simp [State.fetched, State.dispatchWord]

/-- The bytes fetched decode to the operation the step executes, with none left over (R102, R103). -/
theorem State.decode_fetchBytes (s : State) : decode s.fetchBytes = .ok (s.fetched, []) := by
  have hv : (bitsOfWord (s.sampled.dispatchWord s.rx)).v = s.rx.isSome := by
    simp [State.dispatchWord, State.dispatchBits]
  unfold State.fetchBytes State.fetched
  cases h : s.rx with
  | none =>
    rw [h] at hv
    simp only [decode, Option.toList_none, hv, Option.isSome_none, Option.getD_none]
  | some b =>
    rw [h] at hv
    simp only [decode, Option.toList_some, hv, Option.isSome_some, Option.getD_some]

/-- The edge with `rst = 1` (R210). -/
theorem step_of_reset (s : State) (hc : s.cfg.runnable = true) (hr : s.input.rst = true) :
    step s = .next (s.opened.loadReset s.input.time) := by
  simp only [step, hc, hr, if_true]

/-- The edge with `rst = 0` (R101). -/
theorem step_of_running (s : State) (hc : s.cfg.runnable = true) (hr : s.input.rst = false) :
    step s = exec s.fetched s.prepared := by
  simp only [step, hc, hr, if_true, Bool.false_eq_true, if_false]

/-- Every way a step can answer a next state: parameters in bounds, and a reset load or the selected operation. -/
theorem step_cases {s t : State} (h : step s = .next t) :
    s.cfg.runnable = true ∧
      (s.input.rst = true ∧ t = s.opened.loadReset s.input.time ∨
        s.input.rst = false ∧ exec s.fetched s.prepared = .next t) := by
  by_cases hc : s.cfg.runnable = true
  · cases hr : s.input.rst with
    | true =>
      rw [step_of_reset s hc hr] at h
      injection h with h
      exact ⟨hc, .inl ⟨rfl, h.symm⟩⟩
    | false =>
      rw [step_of_running s hc hr] at h
      exact ⟨hc, .inr ⟨rfl, h⟩⟩
  · simp [step, hc] at h

/-- A run of one edge more. -/
theorem run_succ {s t : State} (h : step s = .next t) (k : Nat) :
    Host.Core.run Sys2Proof.core (k + 1) s = Host.Core.run Sys2Proof.core k t := by
  have h' : Sys2Proof.core.step s = Host.Outcome.next t := h
  simp only [Host.Core.run, h']

/-- The commands of one step more. -/
theorem State.commands_succ {s t : State} (h : step s = .next t) (k : Nat) :
    s.commands (k + 1) = t.out ++ t.commands k := by
  simp only [State.commands, h]

end Sys2Proof.Machine
end

