-- ==== Sys2Proof/Laws/Place.lean ====
section
/-! SUPPORT. An instruction placed by `State.placeInstr` is the instruction the next step selects and runs, for every
dispatch word, input byte and state: what `State.withFetchWord` is for. -/

namespace Sys2Proof.Machine

/-- The decoder looks at `E` and `Z` only where its rows test them, so words that agree on the rest select alike. -/
theorem decodeBits_congr {d d' : DispatchBits} {b b' : Byte} (hv : d'.v = d.v) (ha : d.v = false → d'.a = d.a)
    (ht : d.v = false → d'.t = d.t) (hb : d.v = true → b' = b)
    (hm : d.v = true → d'.m = d.m) (h1 : d.v = true → d'.p1 = d.p1) (h0 : d.v = true → d'.p0 = d.p0)
    (he : d.v = true → d.m = false → d.p1 = d.p0 → d'.e = d.e) (hz : d.v = true → d.m = true → d'.z = d.z) :
    decodeBits d' b' = decodeBits d b := by
  obtain ⟨v, m, p1, p0, e, z, a, t⟩ := d
  obtain ⟨v', m', p1', p0', e', z', a', t'⟩ := d'
  dsimp only at *
  subst hv
  cases v' with
  | false => rw [ha rfl, ht rfl]; simp [decodeBits]
  | true =>
    rw [hb rfl, hm rfl, h1 rfl, h0 rfl]
    cases m <;> cases p1 <;> cases p0 <;> simp_all [decodeBits]

/-- The placed stamps give the bit `A`. -/
theorem ackDue_placeTimers (d : DispatchBits) (s : State) : (s.placeTimers d).ackDue = d.a := by
  simp only [State.ackDue, State.elapsed, State.placeTimers, ackIntervalMs]
  by_cases hd : d.a = true
  · simp [hd]
  · simp [hd]

/-- The placed stamps and parameters give the bit `T`. -/
theorem blankDue_placeTimers (d : DispatchBits) (s : State) : (s.placeTimers d).blankDue = d.t := by
  simp only [State.blankDue, ackDue_placeTimers]
  simp only [State.windowExpired, State.elapsed, State.placeTimers, ackIntervalMs]
  by_cases h0 : s.cfg.timeoutMs = 0#32
  · by_cases hd : d.t = true <;> by_cases ha : d.a = true <;> simp [hd, ha, h0]
  · have h0' : s.cfg.timeoutMs.toNat ≠ 0 := fun h => h0 (BitVec.eq_of_toNat_eq h)
    by_cases hd : d.t = true <;> by_cases ha : d.a = true <;> simp [hd, ha, h0, h0']

/-- A place found lies in the list and passes the test. -/
theorem findIdx?_spec {l : List Byte} {p : Byte → Bool} {k : Nat} (h : l.findIdx? p = some k) :
    ∃ (hk : k < l.length), p l[k] = true := by
  rw [List.findIdx?_eq_some_iff_getElem] at h
  obtain ⟨hk, hp, _⟩ := h
  exact ⟨hk, hp⟩

/-- The placed matcher waits for a magic byte that the input byte equals or not, as wanted. -/
theorem placeMatcher_spec (hit : Bool) (b : Byte) (s : State) (h : s.cfg.runnable = true) :
    (s.placeMatcher hit b).progress.toNat < (s.placeMatcher hit b).cfg.magic.length ∧
      ((s.placeMatcher hit b).expectedMagic == some b) = hit := by
  obtain ⟨-, -, hl, hl'⟩ := (runnable_iff _).1 h
  unfold State.placeMatcher
  split
  · rename_i k hk
    obtain ⟨hk, hp⟩ := findIdx?_spec hk
    have : k % 256 = k := Nat.mod_eq_of_lt (by omega)
    simp only [State.expectedMagic, BitVec.toNat_ofNat, Nat.reducePow, this]
    exact ⟨hk, by simpa [hk] using hp⟩
  · simp only [State.expectedMagic, List.length_cons, BitVec.toNat_ofNat]
    refine ⟨by simp, ?_⟩
    cases hit
    · simp
    · simp

/-- The placed mode is the bit `M`. -/
theorem mode_placePhase (d : DispatchBits) (b : Byte) (s : State) :
    (s.placePhase d b).mode.bit = d.m := by
  obtain ⟨v, m, p1, p0, e, z, a, t⟩ := d
  cases m <;> cases p1 <;> cases p0 <;> cases v <;> rfl

/-- The placed sequencer gives the phase `P` for a byte step. -/
theorem phase_placePhase (d : DispatchBits) (b : Byte) (s : State) (h : s.cfg.runnable = true) (hv : d.v = true) :
    (s.placePhase d b).phase = 2 * d.p1.toNat + d.p0.toNat := by
  obtain ⟨hn, hn', hl, hl'⟩ := (runnable_iff _).1 h
  obtain ⟨v, m, p1, p0, e, z, a, t⟩ := d
  dsimp only at hv
  subst hv
  cases m with
  | true =>
    have hw : (if s.writePos.toNat < s.cfg.stripLen then s.writePos else 0#17).toNat < s.cfg.stripLen := by
      split
      · assumption
      · exact hn
    have hN : ¬ s.cfg.stripLen % 131072 < s.cfg.stripLen := by omega
    cases p1 <;> cases p0 <;> simp [State.placePhase, State.phase, hw, hN]
  | false =>
    have h0 : s.cfg.magic.length % 256 = s.cfg.magic.length := Nat.mod_eq_of_lt (by omega)
    have h1 : (s.cfg.magic.length + 1) % 256 = s.cfg.magic.length + 1 := Nat.mod_eq_of_lt (by omega)
    have h2 : (s.cfg.magic.length + 2) % 256 = s.cfg.magic.length + 2 := Nat.mod_eq_of_lt (by omega)
    cases p1 <;> cases p0
    · simp [State.placePhase, State.phase, (placeMatcher_spec e b s h).1]
    · simp [State.placePhase, State.phase, h0]
    · simp [State.placePhase, State.phase, h1]
    · simp [State.placePhase, State.phase, h2]

/-- Another low bit makes another checksum. -/
theorem headerChecksum_flip (hi lo : Byte) : (headerChecksum hi lo == headerChecksum hi (lo ^^^ 1#8)) = false := by
  rw [beq_eq_false_iff_ne]
  intro h
  have := congrArg (fun x => x.getLsbD 0) h
  simp [headerChecksum] at this

/-- The low byte that makes a wanted checksum. -/
theorem headerChecksum_solve (hi b : Byte) : headerChecksum hi (hi ^^^ b ^^^ checksumConst) = b := by
  have : hi ^^^ (hi ^^^ b ^^^ checksumConst) ^^^ checksumConst = (hi ^^^ hi) ^^^ b ^^^ (checksumConst ^^^ checksumConst) := by
    ac_rfl
  rw [headerChecksum, this]
  simp

/-- The placed sequencer gives the bit `E` where a row tests it. -/
theorem expectedByte_placePhase (d : DispatchBits) (b : Byte) (s : State) (h : s.cfg.runnable = true) (hv : d.v = true)
    (hm : d.m = false) (hp : d.p1 = d.p0) : (s.placePhase d b).expectedByte (some b) = d.e := by
  have hph := phase_placePhase d b s h hv
  have hmode : (s.placePhase d b).mode = .sync := by
    have := mode_placePhase d b s
    rw [hm] at this
    cases hx : (s.placePhase d b).mode <;> simp_all
  unfold State.expectedByte
  rw [hmode, hph]
  obtain ⟨v, m, p1, p0, e, z, a, t⟩ := d
  dsimp only at *
  subst hv hm hp
  cases p1
  · exact (placeMatcher_spec e b s h).2
  · simp only [State.placePhase, Bool.toNat_true, if_true]
    cases e
    · by_cases hb : b = headerChecksum s.hi s.lo
      · simp [hb, headerChecksum_flip]
      · simp [hb]
    · by_cases hb : b = headerChecksum s.hi s.lo
      · simp [hb]
      · simp [hb, headerChecksum_solve]

/-- The placed sequencer gives the bit `Z` in PAYLOAD mode. -/
theorem lastPayloadByte_placePhase (d : DispatchBits) (b : Byte) (s : State) (hm : d.m = true) :
    (s.placePhase d b).lastPayloadByte = d.z := by
  unfold State.placePhase State.lastPayloadByte
  by_cases hz : d.z = true <;> simp [hm, hz] <;> split <;> simp_all

/-- The instruction placed is the instruction fetched. -/
theorem State.fetched_placeInstr (s : State) (w b : Byte) : (s.placeInstr w b).fetched = decodeWord w b := by
  rw [State.fetched_eq, decodeWord]
  generalize hd : bitsOfWord w = d
  simp only [State.placeInstr, hd]
  generalize hs₀ : (if s.cfg.runnable then s else { s with cfg := Config.default }) = s₀
  have h₀ : s₀.cfg.runnable = true := by
    rw [← hs₀]; split
    · assumption
    · show Config.default.runnable = true
      decide
  generalize hq : (if d.v then b :: ((s₀.placePhase d b).placeTimers d).link.q else []) = q
  set t : State := { (s₀.placePhase d b).placeTimers d with
    link := { ((s₀.placePhase d b).placeTimers d).link with q := q }
    script := ⟨false, [], ((s₀.placePhase d b).placeTimers d).tNow⟩ :: ((s₀.placePhase d b).placeTimers d).script } with ht
  have hrx : t.rx = if d.v then some b else none := by
    show (q ++ []).head? = _
    rw [← hq]; split <;> simp
  have hA : t.sampled.ackDue = d.a := ackDue_placeTimers d (s₀.placePhase d b)
  have hT : t.sampled.blankDue = d.t := blankDue_placeTimers d (s₀.placePhase d b)
  apply decodeBits_congr
  · simp only [State.dispatchBits, hrx]; split <;> simp_all
  · intro; exact hA
  · intro; exact hT
  · intro hv; simp [hrx, hv]
  · intro; exact mode_placePhase d b s₀
  · intro hv
    have : t.sampled.phase = _ := phase_placePhase d b s₀ h₀ hv
    simp only [State.dispatchBits, this]
    cases d.p1 <;> cases d.p0 <;> rfl
  · intro hv
    have : t.sampled.phase = _ := phase_placePhase d b s₀ h₀ hv
    simp only [State.dispatchBits, this]
    cases d.p1 <;> cases d.p0 <;> rfl
  · intro hv hm hp
    simp only [State.dispatchBits, hrx, hv, if_true]
    exact expectedByte_placePhase d b s₀ h₀ hv hm hp
  · intro _ hm
    exact lastPayloadByte_placePhase d b s₀ hm

/-- Placing keeps the parameters within their bounds. -/
theorem runnable_placePhase (d : DispatchBits) (b : Byte) (s : State) (h : s.cfg.runnable = true) :
    (s.placePhase d b).cfg.runnable = true := by
  have hm : ∀ hit, (s.placeMatcher hit b).cfg.runnable = true := by
    intro hit
    unfold State.placeMatcher
    split
    · exact h
    · obtain ⟨h1, h2, h3, h4⟩ := (runnable_iff _).1 h
      refine (runnable_iff _).2 ⟨h1, h2, ?_, ?_⟩ <;> simp only [List.length_cons, List.length_tail] <;> omega
  obtain ⟨v, m, p1, p0, e, z, a, t⟩ := d
  cases m <;> cases p1 <;> cases p0 <;> cases v <;> first | exact h | exact hm _

/-- The step after placing an instruction runs it. -/
theorem step_placeInstr (s : State) (w b : Byte) :
    step (s.placeInstr w b) = exec (decodeWord w b) (s.placeInstr w b).prepared := by
  have hc : (s.placeInstr w b).cfg.runnable = true := by
    have h₀ : (if s.cfg.runnable then s else { s with cfg := Config.default }).cfg.runnable = true := by
      split
      · assumption
      · show Config.default.runnable = true
        decide
    exact runnable_placePhase (bitsOfWord w) b _ h₀
  rw [step_of_running _ hc rfl, State.fetched_placeInstr]

end Sys2Proof.Machine
end

