-- ==== Sys2Proof/Tests/Slice0.lean ====
section
/-! SUPPORT. Tests: what WellFormed refuses, one word of every row written bit by bit (spec/30_encoding.md R104), one
step vectors of spec/95_test_vectors.md (each theorem names its vectors), and for every statement with hypotheses a
state that meets them. -/

namespace Sys2Proof.Tests

open Sys2Proof Sys2Proof.Machine

/-! ### Helpers -/

/-- `Reset(0)` with the default parameters of 95_test_vectors.md and `N = 2`. -/
def base : State := State.resetWith Config.default 0#32

/-- `Reset(0)` with other parameters. -/
def baseWith (cfg : Config) : State := State.resetWith cfg 0#32

/-- The next state, if the step has one. -/
def stepped (s : State) : Option State :=
  match step s with
  | .next t => some t
  | .fault _ => none
  | .refused _ => none

/-- The next state of an operation, if it has one. -/
def executed (i : Instr) (s : State) : Option State :=
  match exec i s with
  | .next t => some t
  | .fault _ => none
  | .refused _ => none

/-- One line of a script: the words the dispatch forms, and the state after the step. -/
def vector (s : State) (l : Line) : List Byte × Option State :=
  ((s.withLines [l]).fetchBytes, stepped (s.withLines [l]))

/-- A payload state of the vectors: `count`, `remaining`, `write_pos`, `chan`, `acc`. -/
def paying (cfg : Config) (count : BitVec 16) (remaining : Remaining) (writePos : WritePos) (chan : BitVec 2)
    (acc : Acc) : State :=
  { baseWith cfg with
    mode := .payload, count := count, remaining := remaining, writePos := writePos, chan := chan, acc := acc }

/-- A state whose watchdog stamps are given. -/
def stamped (cfg : Config) (now lastByte lastAck : Stamp) : State :=
  { baseWith cfg with tNow := now, tLastByte := lastByte, tLastAck := lastAck }

/-! ### WellFormed refuses each ill-formed term (R6, D9, U1, U7) -/

theorem test_wf_default : Config.default.wf = true ∧ Config.default.runnable = true := by decide

theorem test_wf_refuses_empty_strip : { Config.default with stripLen := 0 }.runnable = false := by decide

theorem test_wf_refuses_long_strip :
    { Config.default with stripLen := 65537 }.runnable = false ∧
    { Config.default with stripLen := 65536 }.runnable = true := by decide

theorem test_wf_refuses_empty_magic : { Config.default with magic := [] }.runnable = false := by decide

theorem test_wf_refuses_long_magic :
    { Config.default with magic := List.replicate 254 0#8 }.runnable = false ∧
    { Config.default with magic := List.replicate 253 0#8 }.runnable = true := by
  simp only [Config.runnable, List.length_replicate]
  decide

theorem test_wf_refuses_repeated_magic :
    { Config.default with magic := [1#8, 2#8, 1#8] }.wf = false ∧
    { Config.default with magic := [1#8, 2#8, 1#8] }.runnable = true := by decide

theorem test_wf_refuses_hit_off_magic : Instr.wf Config.default (.syncHit 0x42#8) = false := by decide

theorem test_wf_refuses_miss_on_only_magic :
    Instr.wf { Config.default with magic := [0xAA#8] } (.syncMiss 0xAA#8) = false := by decide

theorem test_wf_refuses_nested_blank :
    Instr.wf { Config.default with timeoutMs := 500#32 } .wdgBlank = false ∧
    Instr.wf { Config.default with timeoutMs := 500#32, wdgNested := false } .wdgBlank = true := by decide

theorem test_wf_refuses_blank_without_timeout :
    Instr.wf { Config.default with wdgNested := false } .wdgBlank = false ∧
    Instr.wf Config.default .wdgAckblank = false := by decide

theorem test_step_refuses_empty_strip :
    step (baseWith { Config.default with stripLen := 0 }) = .refused .illegalConfig := by rfl

/-! ### Decode: one word of every row, bit by bit from R104, and the table's numbering -/

theorem test_decode_sync_hit : decode [0b10001000#8, 0x41#8] = .ok (.syncHit 0x41#8, []) := by rfl
theorem test_decode_sync_miss : decode [0b10000111#8, 0x00#8] = .ok (.syncMiss 0x00#8, []) := by rfl
theorem test_decode_hdr_hi : decode [0b10010000#8, 0x41#8] = .ok (.hdrHi 0x41#8, []) := by rfl
theorem test_decode_hdr_lo : decode [0b10100000#8, 0x34#8] = .ok (.hdrLo 0x34#8, []) := by rfl
theorem test_decode_hdr_ok : decode [0b10111000#8, 0x55#8] = .ok (.hdrOk 0x55#8, []) := by rfl
theorem test_decode_hdr_bad : decode [0b10110011#8, 0x41#8] = .ok (.hdrBad 0x41#8, []) := by rfl
theorem test_decode_pay_r : decode [0b11000000#8, 0xFF#8] = .ok (.payR 0xFF#8, []) := by rfl
theorem test_decode_pay_g : decode [0b11010010#8, 0x00#8] = .ok (.payG 0x00#8, []) := by rfl
theorem test_decode_pay_b : decode [0b11100000#8, 0x30#8] = .ok (.payB 0x30#8, []) := by rfl
theorem test_decode_pay_b_last : decode [0b11100100#8, 0x03#8] = .ok (.payBLast 0x03#8, []) := by rfl
theorem test_decode_pay_skip : decode [0b11110000#8, 0x11#8] = .ok (.paySkip 0x11#8, []) := by rfl
theorem test_decode_pay_skip_last : decode [0b11110100#8, 0x33#8] = .ok (.paySkipLast 0x33#8, []) := by rfl
theorem test_decode_wdg_idle : decode [0b00000000#8, 0x99#8] = .ok (.wdgIdle, [0x99#8]) := by rfl
theorem test_decode_wdg_blank : decode [0b01000001#8] = .ok (.wdgBlank, []) := by rfl
theorem test_decode_wdg_ack : decode [0b01100010#8] = .ok (.wdgAck, []) := by rfl
theorem test_decode_wdg_ackblank : decode [0b01100011#8] = .ok (.wdgAckblank, []) := by rfl

theorem test_decode_refuses : decode [] = .error .noDispatchWord ∧ decode [0x88#8] = .error .noInputByte := by
  exact ⟨rfl, rfl⟩

theorem test_encode :
    encode (.payBLast 0x03#8) = [0xE4#8, 0x03#8] ∧ encode .wdgAckblank = [0x03#8] ∧
    encodeWith 0xFF#8 (.payBLast 0x03#8) = [0xEF#8, 0x03#8] := by decide

theorem test_table_word :
    decodeTableWord 8 0xB8 = some (.hdrOk 0#8) ∧ decodeTableWord 16 0x55B8 = some (.hdrOk 0x55#8) ∧
    decodeTableWord 8 0x55B8 = some (.hdrOk 0#8) := by decide

/-- The first step after reset runs the word placed there, here SYNC.MISS and WDG.BLANK (proved for every word by
`step_placeInstr`). -/
theorem test_with_fetch_word :
    (State.reset.withFetchWord 8 0x80).fetched = .syncMiss 0#8 ∧
    (State.reset.withFetchWord 8 0x01).fetched = .wdgBlank := by decide

/-! ### One step vectors of 95_test_vectors.md -/

/-- V-S1, V-S10: dispatch word, `progress`, the stamps; nothing is emitted. -/
theorem test_sync_hit :
    (vector base (.rx 0x41#8 0#32)).1 = [0x88#8, 0x41#8] ∧
    (vector (baseWith { Config.default with timeoutMs := 2500#32 }) (.rx 0x41#8 5000#32)).1 = [0x8B#8, 0x41#8] ∧
    (vector (baseWith { Config.default with timeoutMs := 2500#32 }) (.rx 0x41#8 5000#32)).2.map
      (fun t => (t.progress, t.tLastByte, t.tLastAck, t.out)) = some (1#8, 5000#32, 0#32, []) := by decide

/-- V-S5 and V-S9: the failing byte is dropped; the liveness timer restarts with ACK_RESET_ON_BYTE. -/
theorem test_sync_miss :
    (vector { base with progress := 1#8 } (.rx 0x41#8 0#32)).1 = [0x80#8, 0x41#8] ∧
    (vector { base with progress := 1#8 } (.rx 0x41#8 0#32)).2.map (fun t => t.progress) = some 0#8 ∧
    (vector (baseWith { Config.default with ackResetOnByte := true }) (.rx 0x00#8 777#32)).2.map
      (fun t => (t.tNow, t.tLastByte, t.tLastAck)) = some (777#32, 777#32, 777#32) := by decide

/-- V-H1 and V-S7. -/
theorem test_hdr_hi :
    (vector { base with progress := 3#8 } (.rx 0x41#8 0#32)).1 = [0x90#8, 0x41#8] ∧
    (vector { base with progress := 3#8 } (.rx 0x41#8 0#32)).2.map (fun t => (t.progress, t.hi)) =
      some (4#8, 0x41#8) ∧
    (vector { baseWith { Config.default with magic := [0xAA#8] } with progress := 1#8 } (.rx 0xAA#8 0#32)).2.map
      (fun t => (t.progress, t.hi)) = some (2#8, 0xAA#8) := by decide

/-- V-H2. -/
theorem test_hdr_lo :
    (vector { base with progress := 4#8, hi := 0x12#8 } (.rx 0x34#8 0#32)).1 = [0xA0#8, 0x34#8] ∧
    (vector { base with progress := 4#8, hi := 0x12#8 } (.rx 0x34#8 0#32)).2.map
      (fun t => (t.progress, t.hi, t.lo)) = some (5#8, 0x12#8, 0x34#8) := by decide

/-- V-H4 and V-H8. -/
theorem test_hdr_ok :
    (vector { base with progress := 5#8, hi := 0xFF#8, lo := 0xFF#8 } (.rx 0x55#8 0#32)).1 = [0xB8#8, 0x55#8] ∧
    (vector { base with progress := 5#8, hi := 0xFF#8, lo := 0xFF#8 } (.rx 0x55#8 0#32)).2.map
      (fun t => (t.mode, t.count, t.remaining, t.out)) = some (.payload, 65535#16, 196608#18, [.clear]) ∧
    (vector
      { base with
        progress := 5#8, count := 9#16, remaining := 4#18, writePos := 7#17, chan := 2#2, acc := ⟨1#8, 2#8, 3#8⟩ }
      (.rx 0x55#8 0#32)).2.map (fun t => (t.remaining, t.writePos, t.chan, t.acc)) =
        some (3#18, 0#17, 0#2, ⟨1#8, 2#8, 3#8⟩) := by decide

/-- V-H6. -/
theorem test_hdr_bad :
    (vector { base with progress := 5#8, lo := 0x01#8 } (.rx 0x55#8 0#32)).1 = [0xB0#8, 0x55#8] ∧
    (vector { base with progress := 5#8, lo := 0x01#8 } (.rx 0x55#8 0#32)).2.map
      (fun t => (t.mode, t.progress, t.lo, t.out)) = some (.sync, 0#8, 0x01#8, []) := by decide

/-- V-P13. -/
theorem test_pay_r :
    (vector (paying Config.default 65535#16 196608#18 0#17 0#2 ⟨0#8, 0#8, 0#8⟩) (.rx 0x41#8 0#32)).1 =
      [0xC0#8, 0x41#8] ∧
    (vector (paying Config.default 65535#16 196608#18 0#17 0#2 ⟨0#8, 0#8, 0#8⟩) (.rx 0x41#8 0#32)).2.map
      (fun t => (t.remaining, t.chan, t.acc)) = some (196607#18, 1#2, ⟨0x41#8, 0#8, 0#8⟩) := by decide

/-- V-P15. -/
theorem test_pay_g :
    (vector (paying Config.default 1#16 5#18 0#17 1#2 ⟨0xFF#8, 0#8, 0#8⟩) (.rx 0x00#8 123456#32)).1 =
      [0xD2#8, 0x00#8] ∧
    (vector (paying Config.default 1#16 5#18 0#17 1#2 ⟨0xFF#8, 0#8, 0#8⟩) (.rx 0x00#8 123456#32)).2.map
      (fun t => (t.remaining, t.chan, t.acc, t.tLastByte)) =
        some (4#18, 2#2, ⟨0xFF#8, 0#8, 0#8⟩, 123456#32) := by decide

/-- V-P4: reversed on a strip of 300, logical position 0 goes to index 299. -/
theorem test_pay_b :
    (vector (paying { Config.default with stripLen := 300, reversed := true } 299#16 898#18 0#17 2#2
      ⟨0x10#8, 0x20#8, 0#8⟩) (.rx 0x30#8 0#32)).1 = [0xE0#8, 0x30#8] ∧
    (vector (paying { Config.default with stripLen := 300, reversed := true } 299#16 898#18 0#17 2#2
      ⟨0x10#8, 0x20#8, 0#8⟩) (.rx 0x30#8 0#32)).2.map (fun t => (t.out, t.remaining, t.writePos, t.chan, t.acc)) =
        some ([.set 299#16 0x10#8 0x20#8 0x30#8], 897#18, 1#17, 0#2, ⟨0x10#8, 0x20#8, 0x30#8⟩) := by decide

/-- V-P6, and V-P11: the largest index and position. -/
theorem test_pay_b_last :
    (vector (paying { Config.default with flushOnCommit := true } 1#16 1#18 1#17 2#2 ⟨1#8, 2#8, 0#8⟩)
      (.rx 0x03#8 0#32)).2.map (fun t => (t.out, t.mode, t.remaining, t.writePos)) =
        some ([.set 1#16 1#8 2#8 3#8, .commit, .flush], .sync, 0#18, 2#17) ∧
    (vector (paying { Config.default with stripLen := 65536 } 65535#16 1#18 65535#17 2#2 ⟨0xAB#8, 0xCD#8, 0#8⟩)
      (.rx 0xEF#8 0#32)).2.map (fun t => (t.out, t.writePos)) =
        some ([.set 65535#16 0xAB#8 0xCD#8 0xEF#8, .commit], 65536#17) := by decide

/-- V-P8. -/
theorem test_pay_skip :
    (vector (paying { Config.default with stripLen := 1 } 1#16 3#18 1#17 0#2 ⟨0#8, 0#8, 0#8⟩) (.rx 0x11#8 0#32)).1 =
      [0xF0#8, 0x11#8] ∧
    (vector (paying { Config.default with stripLen := 1 } 1#16 3#18 1#17 0#2 ⟨0#8, 0#8, 0#8⟩)
      (.rx 0x11#8 0#32)).2.map (fun t => (t.out, t.mode, t.remaining, t.chan)) =
        some ([], .payload, 2#18, 0#2) := by decide

/-- V-P9 and V-P10. -/
theorem test_pay_skip_last :
    (vector (paying { Config.default with stripLen := 1, flushOnCommit := true } 1#16 1#18 1#17 0#2 ⟨0#8, 0#8, 0#8⟩)
      (.rx 0x33#8 0#32)).2.map (fun t => (t.out, t.mode, t.remaining)) = some ([.commit, .flush], .sync, 0#18) ∧
    (vector (paying { Config.default with stripLen := 1 } 1#16 1#18 1#17 0#2 ⟨0#8, 0#8, 0#8⟩)
      (.rx 0x33#8 0#32)).2.map (fun t => t.out) = some [.commit] := by decide

/-- V-W9 (the timebase wraps: 999 ms) and V-W12 (nested, the acknowledgment not due). -/
theorem test_wdg_idle :
    (vector (stamped Config.default 0#32 4294967040#32 4294967040#32) (.idle 743#32)).2.map
      (fun t => (t.tNow, t.tLastAck, t.out)) = some (743#32, 4294967040#32, []) ∧
    (vector (baseWith { Config.default with timeoutMs := 500#32 }) (.idle 600#32)).1 = [0x00#8] := by decide

/-- V-W5 and V-W14. -/
theorem test_wdg_blank :
    (vector { paying { Config.default with timeoutMs := 2500#32, wdgNested := false } 0#16 4#18 0#17 0#2
      ⟨0#8, 0#8, 0#8⟩ with tLastAck := 2000#32 } (.idle 2500#32)).2.map
        (fun t => (t.out, t.mode, t.remaining, t.tLastByte, t.tLastAck)) =
          some ([.clear, .commit], .sync, 4#18, 2500#32, 2000#32) ∧
    (vector (baseWith { Config.default with timeoutMs := 500#32, wdgNested := false }) (.idle 600#32)).1 =
      [0x01#8] := by decide

/-- V-W8 (the timebase wraps: 1000 ms) and V-W15. -/
theorem test_wdg_ack :
    (vector (stamped Config.default 0#32 4294967040#32 4294967040#32) (.idle 744#32)).2.map
      (fun t => (t.out, t.tLastAck, t.tLastByte)) = some ([.ack], 744#32, 4294967040#32) ∧
    (vector { paying { Config.default with timeoutMs := 2500#32 } 1#16 4#18 0#17 2#2 ⟨0#8, 0#8, 0#8⟩ with
      tLastByte := 1000#32, tLastAck := 2000#32 } (.idle 3000#32)).1 = [0x62#8] := by decide

/-- V-W4, and V-W10: the timebase jumps backwards. -/
theorem test_wdg_ackblank :
    (vector { stamped { Config.default with timeoutMs := 2500#32 } 0#32 0#32 2000#32 with progress := 2#8 }
      (.idle 3000#32)).2.map (fun t => (t.out, t.progress, t.tLastByte, t.tLastAck)) =
        some ([.ack, .clear, .commit], 0#8, 3000#32, 3000#32) ∧
    (vector (stamped { Config.default with timeoutMs := 2500#32 } 5000#32 5000#32 5000#32) (.idle 4000#32)).1 =
      [0x03#8] := by decide

/-! ### A state that meets the hypotheses of each statement -/

/-- The default parameters with a timeout of 500 ms. -/
def timed : Config := { Config.default with timeoutMs := 500#32 }

/-- A byte step from scan mode on a magic byte. -/
def byteAt (progress : Progress) (b : Byte) : State := { base with progress := progress }.withLines [.rx b 7#32]

/-- A byte step in PAYLOAD mode. -/
def payAt (remaining : Remaining) (writePos : WritePos) (chan : BitVec 2) : State :=
  (paying Config.default 1#16 remaining writePos chan ⟨1#8, 2#8, 3#8⟩).withLines [.rx 9#8 7#32]

/-- An idle step at a time. -/
def idleAt (cfg : Config) (time : Stamp) : State := (baseWith cfg).withLines [.idle time]

/-- `n` edges without reset, with no arrivals and at time 0. -/
def quiet (n : Nat) : List Slot := List.replicate n ⟨false, [], 0#32⟩

theorem witness_StepRunsFetchedInstruction :
    (byteAt 0#8 0x41#8).cfg.runnable = true ∧ (byteAt 0#8 0x41#8).input.rst = false ∧
    decode (byteAt 0#8 0x41#8).fetchBytes = .ok (.syncHit 0x41#8, []) := ⟨rfl, rfl, rfl⟩

/-- Every clause of the statement, at the values of `progress` where the clauses meet: 0 and 2 (hit, miss), 3, 4, 5
(accepted, rejected), and 255, beyond every reachable value. -/
theorem witness_ByteStepInSyncMode :
    (byteAt 0#8 0x41#8).ByteStep 0x41#8 ∧ (byteAt 0#8 0x41#8).fetched = .syncHit 0x41#8 ∧
    (byteAt 2#8 0x41#8).ByteStep 0x41#8 ∧ (byteAt 2#8 0x41#8).fetched = .syncMiss 0x41#8 ∧
    (byteAt 3#8 0x41#8).ByteStep 0x41#8 ∧ (byteAt 3#8 0x41#8).fetched = .hdrHi 0x41#8 ∧
    (byteAt 4#8 0x41#8).ByteStep 0x41#8 ∧ (byteAt 4#8 0x41#8).fetched = .hdrLo 0x41#8 ∧
    (byteAt 5#8 0x55#8).ByteStep 0x55#8 ∧ (byteAt 5#8 0x55#8).fetched = .hdrOk 0x55#8 ∧
    (byteAt 5#8 0x54#8).ByteStep 0x54#8 ∧ (byteAt 5#8 0x54#8).fetched = .hdrBad 0x54#8 ∧
    (byteAt 255#8 0x55#8).ByteStep 0x55#8 ∧ (byteAt 255#8 0x55#8).fetched = .hdrOk 0x55#8 ∧
    (byteAt 0#8 0x41#8).mode = .sync :=
  ⟨⟨rfl, rfl, rfl⟩, rfl, ⟨rfl, rfl, rfl⟩, rfl, ⟨rfl, rfl, rfl⟩, rfl, ⟨rfl, rfl, rfl⟩, rfl, ⟨rfl, rfl, rfl⟩, rfl,
    ⟨rfl, rfl, rfl⟩, rfl, ⟨rfl, rfl, rfl⟩, rfl, rfl⟩

/-- Every clause of the statement, with `remaining` 0, 1 and 2, the last position on the strip and the first beyond it,
and the channel value 3 of no reachable state. -/
theorem witness_ByteStepInPayloadMode :
    (payAt 2#18 1#17 0#2).ByteStep 9#8 ∧ (payAt 2#18 1#17 0#2).fetched = .payR 9#8 ∧
    (payAt 1#18 1#17 0#2).ByteStep 9#8 ∧ (payAt 1#18 1#17 0#2).fetched = .payR 9#8 ∧
    (payAt 2#18 1#17 1#2).ByteStep 9#8 ∧ (payAt 2#18 1#17 1#2).fetched = .payG 9#8 ∧
    (payAt 2#18 1#17 2#2).ByteStep 9#8 ∧ (payAt 2#18 1#17 2#2).fetched = .payB 9#8 ∧
    (payAt 1#18 1#17 2#2).ByteStep 9#8 ∧ (payAt 1#18 1#17 2#2).fetched = .payBLast 9#8 ∧
    (payAt 2#18 2#17 0#2).ByteStep 9#8 ∧ (payAt 2#18 2#17 0#2).fetched = .paySkip 9#8 ∧
    (payAt 0#18 2#17 0#2).ByteStep 9#8 ∧ (payAt 0#18 2#17 0#2).fetched = .paySkipLast 9#8 ∧
    (payAt 1#18 1#17 3#2).ByteStep 9#8 ∧ (payAt 1#18 1#17 3#2).fetched = .paySkipLast 9#8 ∧
    (payAt 2#18 1#17 0#2).mode = .payload :=
  ⟨⟨rfl, rfl, rfl⟩, rfl, ⟨rfl, rfl, rfl⟩, rfl, ⟨rfl, rfl, rfl⟩, rfl, ⟨rfl, rfl, rfl⟩, rfl, ⟨rfl, rfl, rfl⟩, rfl,
    ⟨rfl, rfl, rfl⟩, rfl, ⟨rfl, rfl, rfl⟩, rfl, ⟨rfl, rfl, rfl⟩, rfl, rfl⟩

/-- Every clause of the statement, at 999 and 1000 ms and at the timeout of 500 ms and one below. -/
theorem witness_IdleStepRunsWatchdog :
    (idleAt timed 1000#32).IdleStep ∧ (idleAt timed 1000#32).fetched = .wdgAckblank ∧
    (idleAt Config.default 1000#32).IdleStep ∧ (idleAt Config.default 1000#32).fetched = .wdgAck ∧
    (idleAt { timed with wdgNested := false } 500#32).IdleStep ∧
    (idleAt { timed with wdgNested := false } 500#32).fetched = .wdgBlank ∧
    (idleAt { timed with wdgNested := false } 499#32).IdleStep ∧
    (idleAt { timed with wdgNested := false } 499#32).fetched = .wdgIdle ∧
    (idleAt timed 999#32).IdleStep ∧ (idleAt timed 999#32).fetched = .wdgIdle :=
  ⟨⟨rfl, rfl, rfl⟩, rfl, ⟨rfl, rfl, rfl⟩, rfl, ⟨rfl, rfl, rfl⟩, rfl, ⟨rfl, rfl, rfl⟩, rfl, ⟨rfl, rfl, rfl⟩, rfl⟩

theorem witness_ResetEdgeLoadsResetState :
    { base with script := [⟨true, [1#8], 5#32⟩] }.cfg.runnable = true ∧
    { base with script := [⟨true, [1#8], 5#32⟩] }.input.rst = true := ⟨rfl, rfl⟩

theorem witness_StepAnswersUnlessParametersIllegal :
    base.cfg.runnable = true ∧ (baseWith { Config.default with stripLen := 0 }).cfg.runnable = false := ⟨rfl, rfl⟩

/-- Both clauses, at `remaining` 1 and 2. -/
theorem witness_PayloadOperationsEndTheFrame :
    (payAt 1#18 0#17 2#2).remaining.toNat ≤ 1 ∧ (∃ t, exec (.payB 9#8) (payAt 1#18 0#17 2#2) = .next t) ∧
    ¬ (payAt 2#18 0#17 2#2).remaining.toNat ≤ 1 ∧ (∃ t, exec (.payB 9#8) (payAt 2#18 0#17 2#2) = .next t) :=
  ⟨by decide, ⟨_, rfl⟩, by decide, ⟨_, rfl⟩⟩

theorem witness_ColourStoreOperations : 1 < (payAt 2#18 0#17 0#2).remaining.toNat := by decide

theorem witness_ColourStoreOnLastByte :
    (payAt 1#18 0#17 0#2).remaining.toNat ≤ 1 ∧ (payAt 0#18 0#17 0#2).remaining.toNat ≤ 1 := by decide

/-- The last position on the strip. -/
theorem witness_PixelOperation :
    1 < (payAt 2#18 1#17 2#2).remaining.toNat ∧ (payAt 2#18 1#17 2#2).cfg.stripLen ≤ 65536 ∧
    (payAt 2#18 1#17 2#2).writePos.toNat < (payAt 2#18 1#17 2#2).cfg.stripLen := by decide

theorem witness_LastPixelOperation :
    (payAt 1#18 1#17 2#2).remaining.toNat ≤ 1 ∧ (payAt 1#18 1#17 2#2).cfg.stripLen ≤ 65536 ∧
    (payAt 1#18 1#17 2#2).writePos.toNat < (payAt 1#18 1#17 2#2).cfg.stripLen := by decide

theorem witness_SkipOperations :
    1 < (payAt 2#18 2#17 0#2).remaining.toNat ∧ (payAt 1#18 2#17 0#2).remaining.toNat ≤ 1 := by decide

theorem witness_AcceptedCountIsExact : ∃ t, exec (.hdrOk 0x55#8) (byteAt 5#8 0x55#8) = .next t := ⟨_, rfl⟩

/-- An index on the strip with more payload to come, and one beyond it. -/
theorem witness_PixelStoreFrame :
    (∃ t, exec (.payB 9#8) (payAt 2#18 1#17 2#2) = .next t) ∧
    (payAt 2#18 1#17 2#2).pixelIndex.toNat < (payAt 2#18 1#17 2#2).cfg.stripLen ∧
    1 < (payAt 2#18 1#17 2#2).remaining.toNat ∧
    (∃ t, exec (.payBLast 9#8) (payAt 1#18 2#17 2#2) = .next t) ∧
    ¬ (payAt 1#18 2#17 2#2).pixelIndex.toNat < (payAt 1#18 2#17 2#2).cfg.stripLen :=
  ⟨⟨_, rfl⟩, by decide, by decide, ⟨_, rfl⟩, by decide⟩

theorem witness_ClearFrame :
    (∃ t, exec (.hdrOk 0x55#8) (byteAt 5#8 0x55#8) = .next t) ∧
    (∃ t, exec .wdgBlank (idleAt timed 500#32) = .next t) ∧
    (∃ t, exec .wdgAckblank (idleAt timed 1000#32) = .next t) := ⟨⟨_, rfl⟩, ⟨_, rfl⟩, ⟨_, rfl⟩⟩

theorem witness_NonStoringFrame :
    (∃ t, exec (.syncHit 0x41#8) (byteAt 0#8 0x41#8) = .next t) ∧
    (∃ t, exec (.paySkip 9#8) (payAt 2#18 2#17 0#2) = .next t) ∧ 1 < (payAt 2#18 2#17 0#2).remaining.toNat :=
  ⟨⟨_, rfl⟩, ⟨_, rfl⟩, by decide⟩

/-- The last position of the strip. -/
theorem witness_SinkCommands : 1 < base.cfg.stripLen := by decide

/-- The first byte of the strip and the last one, a write beside a byte that nothing has written, and a reset edge. -/
theorem witness_SinkIsArbitraryUntilWritten :
    0 < 3 * base.cfg.stripLen ∧ 5 < 3 * base.cfg.stripLen ∧
    base.sink.buf.cells = [] ∧ 1 < base.cfg.stripLen ∧ ¬ (3 * 1 ≤ 2 ∧ 2 < 3 * 1 + 3) ∧
    { base with script := [⟨true, [1#8], 5#32⟩] }.input.rst = true ∧
    ∃ t, step { base with script := [⟨true, [1#8], 5#32⟩] } = .next t :=
  ⟨by decide, by decide, rfl, by decide, by decide, rfl, _, rfl⟩

/-- A blanking step, which changes what is shown. -/
theorem witness_ShownChangesOnlyByCommit :
    (idleAt timed 1000#32).input.rst = false ∧ (idleAt timed 1000#32).fetched = .wdgAckblank ∧
    ∃ t, step (idleAt timed 1000#32) = .next t ∧ t.sink.shown ≠ (idleAt timed 1000#32).sink.shown ∧
      Command.commit ∈ t.out := ⟨rfl, rfl, _, rfl, by decide, by decide⟩

theorem witness_InvariantHoldsAtReset : Config.default.runnable = true := rfl

/-- A state inside a frame meets the invariant, and its step goes on. -/
theorem witness_StepKeepsInvariant :
    (payAt 3#18 1#17 0#2).Inv ∧ ∃ t, step (payAt 3#18 1#17 0#2) = .next t :=
  ⟨⟨rfl, by decide, ⟨by decide, by decide⟩, by unfold State.CounterInStep; decide, by decide, by decide, rfl, rfl,
    fun _ _ => rfl, fun _ _ => rfl⟩, _, rfl⟩

/-- A run into PAYLOAD mode. -/
theorem witness_ReachableStatesKeepTheirRanges :
    Config.default.runnable = true ∧
    ∃ t, Host.Core.run Sys2Proof.core 6
        { State.resetWith Config.default 0#32 with
          script := (streamLines (headerBytes Config.default 1#16) 0#32).map lineSlot } = .next t ∧
      t.mode = .payload := ⟨rfl, _, rfl, rfl⟩

theorem witness_OutputListIsOrdered :
    ∃ t, step (idleAt timed 1000#32) = .next t ∧ t.out = [.ack, .clear, .commit] := ⟨_, rfl, rfl⟩

theorem witness_SetLiesOnTheStrip :
    ∃ t, step (payAt 4#18 0#17 2#2) = .next t ∧ Command.set 0#16 1#8 2#8 9#8 ∈ t.out := ⟨_, rfl, by decide⟩

theorem witness_ByteStepStamps :
    (byteAt 0#8 0x41#8).ByteStep 0x41#8 ∧ ∃ t, step (byteAt 0#8 0x41#8) = .next t := ⟨⟨rfl, rfl, rfl⟩, _, rfl⟩

theorem witness_IdleStepKeepsTheFrame :
    (idleAt timed 1000#32).IdleStep ∧ ∃ t, step (idleAt timed 1000#32) = .next t := ⟨⟨rfl, rfl, rfl⟩, _, rfl⟩

/-- For every register of the statement an operation and a state in which it changes. -/
theorem witness_OnlyListedWriters :
    (executed (.hdrHi 1#8) base).map (fun t => t.hi) ≠ some base.hi ∧
    (executed (.hdrLo 1#8) base).map (fun t => t.lo) ≠ some base.lo ∧
    (executed (.hdrOk 0x54#8) { base with lo := 1#8 }).map (fun t => t.count) ≠ some base.count ∧
    (executed (.payR 9#8) (payAt 4#18 0#17 0#2)).map (fun t => t.remaining) ≠ some 4#18 ∧
    (executed (.payB 9#8) (payAt 4#18 0#17 2#2)).map (fun t => t.writePos) ≠ some 0#17 ∧
    (executed (.payB 9#8) (payAt 4#18 0#17 2#2)).map (fun t => t.chan) ≠ some 2#2 ∧
    (executed (.payR 9#8) (payAt 4#18 0#17 0#2)).map (fun t => t.acc.red) ≠ some 1#8 ∧
    (executed (.payG 9#8) (payAt 4#18 0#17 1#2)).map (fun t => t.acc.green) ≠ some 2#8 ∧
    (executed (.payB 9#8) (payAt 4#18 0#17 2#2)).map (fun t => t.acc.blue) ≠ some 3#8 ∧
    (executed .wdgBlank (stamped timed 9#32 0#32 0#32)).map (fun t => t.tLastByte) ≠ some 0#32 ∧
    (executed .wdgAck (stamped timed 9#32 0#32 0#32)).map (fun t => t.tLastAck) ≠ some 0#32 ∧
    (executed (.syncHit 0x41#8) base).map (fun t => t.progress) ≠ some 0#8 ∧
    (executed (.hdrOk 0x55#8) base).map (fun t => t.mode) ≠ some .sync := by decide

/-- In the last byte step of a frame and in the one before it. -/
theorem witness_FrameEndsOnItsLastByte :
    (payAt 1#18 1#17 2#2).Inv ∧ (payAt 1#18 1#17 2#2).ByteStep 9#8 ∧ (payAt 1#18 1#17 2#2).mode = .payload ∧
    (∃ t, step (payAt 1#18 1#17 2#2) = .next t) ∧
    (payAt 2#18 1#17 1#2).Inv ∧ (payAt 2#18 1#17 1#2).ByteStep 9#8 ∧
    (∃ t, step (payAt 2#18 1#17 1#2) = .next t) :=
  ⟨⟨rfl, by decide, ⟨by decide, by decide⟩, by unfold State.CounterInStep; decide, by decide, by decide, rfl, rfl,
    fun _ _ => rfl, fun _ _ => rfl⟩, ⟨rfl, rfl, rfl⟩, rfl, ⟨_, rfl⟩,
    ⟨rfl, by decide, ⟨by decide, by decide⟩, by unfold State.CounterInStep; decide, by decide, by decide, rfl, rfl,
    fun _ _ => rfl, fun _ _ => rfl⟩, ⟨rfl, rfl, rfl⟩, ⟨_, rfl⟩⟩

theorem witness_ChecksumAcceptsOneByte :
    (byteAt 5#8 0x55#8).ByteStep 0x55#8 ∧ (byteAt 5#8 0x54#8).ByteStep 0x54#8 ∧ (byteAt 5#8 0x55#8).mode = .sync ∧
    (byteAt 5#8 0x55#8).progress.toNat = (byteAt 5#8 0x55#8).cfg.magic.length + 2 :=
  ⟨⟨rfl, rfl, rfl⟩, ⟨rfl, rfl, rfl⟩, rfl, rfl⟩

/-- V-S5. -/
theorem witness_BrokenMatchIsNotRescanned :
    (byteAt 1#8 0x41#8).cfg.wf = true ∧ (byteAt 1#8 0x41#8).ByteStep 0x41#8 ∧ (byteAt 1#8 0x41#8).mode = .sync ∧
    0 < (byteAt 1#8 0x41#8).progress.toNat ∧
    (byteAt 1#8 0x41#8).progress.toNat < (byteAt 1#8 0x41#8).cfg.magic.length ∧
    (byteAt 1#8 0x41#8).cfg.magic[0]? = some 0x41#8 :=
  ⟨by decide, ⟨rfl, rfl, rfl⟩, rfl, by decide, by decide, by decide⟩

/-- A run of `n` edges that all stand in the script has no reset if none of them has. -/
theorem running_of_all {s : State} {n : Nat} (hn : n ≤ s.script.length)
    (h : s.script.all (fun x => !x.rst) = true) : s.Running n := by
  intro k hk
  have hk' : k < s.script.length := by omega
  simp only [State.inputAt, List.getD_eq_getElem?_getD, List.getElem?_eq_getElem hk', Option.getD_some]
  have := List.all_eq_true.1 h _ (List.getElem_mem hk')
  simpa using this

theorem witness_NoiseIsSkipped :
    base.cfg.runnable = true ∧ base.mode = .sync ∧ base.progress = 0#8 ∧
    { base with link := ⟨[0x00#8, 0xFF#8, 0x41#8], []⟩, script := quiet 2 }.link.q =
      [0x00#8, 0xFF#8] ++ [0x41#8] ∧
    (∀ b ∈ [0x00#8, 0xFF#8], base.cfg.magic[0]? ≠ some b) ∧
    { base with link := ⟨[0x00#8, 0xFF#8, 0x41#8], []⟩, script := quiet 2 }.Running 2 :=
  ⟨rfl, rfl, rfl, rfl, by decide, running_of_all (by decide) (by decide)⟩

/-- Scan mode with a header of the default magic sequence in the queue. -/
def heading (h l c : Byte) : State :=
  { base with link := ⟨[0x41#8, 0x64#8, 0x61#8, h, l, c], []⟩, script := quiet 6 }

/-- An accepted header (X1) and a rejected one. -/
theorem witness_HeaderAcceptance :
    (heading 0x00#8 0x01#8 0x54#8).cfg.runnable = true ∧ (heading 0x00#8 0x01#8 0x54#8).mode = .sync ∧
    (heading 0x00#8 0x01#8 0x54#8).progress = 0#8 ∧
    (heading 0x00#8 0x01#8 0x54#8).link.q = base.cfg.magic ++ [0x00#8, 0x01#8, 0x54#8] ++ [] ∧
    (heading 0x00#8 0x01#8 0x54#8).Running (base.cfg.magic.length + 3) ∧ 0x54#8 = 0x00#8 ^^^ 0x01#8 ^^^ 0x55#8 ∧
    (heading 0x00#8 0x01#8 0x55#8).cfg.runnable = true ∧ (heading 0x00#8 0x01#8 0x55#8).mode = .sync ∧
    (heading 0x00#8 0x01#8 0x55#8).progress = 0#8 ∧
    (heading 0x00#8 0x01#8 0x55#8).link.q = base.cfg.magic ++ [0x00#8, 0x01#8, 0x55#8] ++ [] ∧
    (heading 0x00#8 0x01#8 0x55#8).Running (base.cfg.magic.length + 3) ∧ 0x55#8 ≠ 0x00#8 ^^^ 0x01#8 ^^^ 0x55#8 :=
  ⟨rfl, rfl, rfl, rfl, running_of_all (by decide) (by decide), by decide, rfl, rfl, rfl, rfl,
    running_of_all (by decide) (by decide), by decide⟩

/-- One magic byte, a timeout of 5000 ms and one position, with a script. -/
def gapped (ls : List Line) : State :=
  (baseWith { Config.default with stripLen := 1, magic := [0xAA#8], timeoutMs := 5000#32 }).withLines ls

/-- A header with an acknowledgment and an idle step that emits nothing among its bytes. -/
def gappedHeader (c : Byte) : List Line :=
  [.rx 0xAA#8 0#32, .idle 1000#32, .rx 0x00#8 1001#32, .rx 0x00#8 1002#32, .idle 1003#32, .rx c 1004#32]

/-- An accepted header and a rejected one. -/
theorem witness_HeaderAcceptanceAmongIdleSteps :
    (gapped (gappedHeader 0x55#8)).cfg.runnable = true ∧ (gapped (gappedHeader 0x55#8)).mode = .sync ∧
    (gapped (gappedHeader 0x55#8)).progress = 0#8 ∧ (gapped (gappedHeader 0x55#8)).Undisturbed 6 ∧
    (gapped (gappedHeader 0x55#8)).received 6 =
      (gapped (gappedHeader 0x55#8)).cfg.magic ++ [0x00#8, 0x00#8, 0x55#8] ∧
    0x55#8 = 0x00#8 ^^^ 0x00#8 ^^^ 0x55#8 ∧
    (gapped (gappedHeader 0x54#8)).cfg.runnable = true ∧ (gapped (gappedHeader 0x54#8)).mode = .sync ∧
    (gapped (gappedHeader 0x54#8)).progress = 0#8 ∧ (gapped (gappedHeader 0x54#8)).Undisturbed 6 ∧
    (gapped (gappedHeader 0x54#8)).received 6 =
      (gapped (gappedHeader 0x54#8)).cfg.magic ++ [0x00#8, 0x00#8, 0x54#8] ∧
    0x54#8 ≠ 0x00#8 ^^^ 0x00#8 ^^^ 0x55#8 :=
  ⟨rfl, rfl, rfl, ⟨running_of_all (by decide) (by decide), by decide⟩, by decide, by decide,
    rfl, rfl, rfl, ⟨running_of_all (by decide) (by decide), by decide⟩, by decide, by decide⟩

theorem witness_FrameLengths : ([(0xFF#8, 0#8, 0#8), (0#8, 0xFF#8, 0#8)] : List Colour).length = (1#16).toNat + 1 := rfl

/-- One byte short of the frame's end and at its end. -/
theorem witness_PayloadEndsOnlyByCount :
    (payAt 3#18 1#17 0#2).cfg.runnable = true ∧ (payAt 3#18 1#17 0#2).mode = .payload ∧
    2 < (payAt 3#18 1#17 0#2).remaining.toNat ∧ 3 ≤ (payAt 3#18 1#17 0#2).remaining.toNat ∧
    0 < (payAt 3#18 1#17 0#2).remaining.toNat ∧
    3 ≤ { payAt 3#18 1#17 0#2 with link := ⟨[1#8, 2#8, 3#8], []⟩, script := quiet 3 }.link.q.length ∧
    { payAt 3#18 1#17 0#2 with link := ⟨[1#8, 2#8, 3#8], []⟩, script := quiet 3 }.Running 3 :=
  ⟨rfl, rfl, by decide, by decide, by decide, by decide, running_of_all (by decide) (by decide)⟩

/-- The frame of two pixels of X3. -/
def twoPixels : List Colour := [(0xFF#8, 0#8, 0#8), (0#8, 0xFF#8, 0#8)]

/-- The state its accepted header leaves, with its payload in the queue, on a strip of `n` positions. -/
def delivering (n : Nat) : State :=
  { paying { Config.default with stripLen := n } 1#16 6#18 0#17 0#2 ⟨0#8, 0#8, 0#8⟩ with
    link := ⟨payloadBytes twoPixels, []⟩, script := quiet 6 }

/-- With as many pixels as positions, and with one more. -/
theorem witness_DeliveredFrameCommands :
    (delivering 2).cfg.runnable = true ∧ (delivering 2).mode = .payload ∧ (delivering 2).progress = 0#8 ∧
    (delivering 2).writePos = 0#17 ∧ (delivering 2).chan = 0#2 ∧
    (delivering 2).remaining.toNat = 3 * ((delivering 2).count.toNat + 1) ∧
    twoPixels.length = (delivering 2).count.toNat + 1 ∧ (delivering 2).link.q = payloadBytes twoPixels ++ [] ∧
    (delivering 2).Running (3 * twoPixels.length) ∧
    (delivering 1).cfg.runnable = true ∧ (delivering 1).mode = .payload ∧ (delivering 1).progress = 0#8 ∧
    (delivering 1).writePos = 0#17 ∧ (delivering 1).chan = 0#2 ∧
    (delivering 1).remaining.toNat = 3 * ((delivering 1).count.toNat + 1) ∧
    twoPixels.length = (delivering 1).count.toNat + 1 ∧ (delivering 1).link.q = payloadBytes twoPixels ++ [] ∧
    (delivering 1).Running (3 * twoPixels.length) ∧ (delivering 1).cfg.stripLen < twoPixels.length :=
  ⟨rfl, rfl, rfl, rfl, rfl, rfl, rfl, rfl, running_of_all (by decide) (by decide),
    rfl, rfl, rfl, rfl, rfl, rfl, rfl, rfl, running_of_all (by decide) (by decide), by decide⟩

/-- The state an accepted header of two pixels leaves on a strip of one position, with their bytes to come among an
acknowledgment and an idle step that emits nothing. -/
def deliveringGapped : State :=
  { gapped
      [.rx 0xFF#8 0#32, .idle 1000#32, .rx 0#8 1001#32, .rx 0#8 1002#32, .rx 0#8 1003#32, .idle 1004#32,
        .rx 0xFF#8 1005#32, .rx 0#8 1006#32] with
    mode := .payload, count := 1#16, remaining := 6#18 }

theorem witness_DeliveredFrameAmongIdleSteps :
    deliveringGapped.cfg.runnable = true ∧ deliveringGapped.mode = .payload ∧ deliveringGapped.progress = 0#8 ∧
    deliveringGapped.writePos = 0#17 ∧ deliveringGapped.chan = 0#2 ∧
    deliveringGapped.remaining.toNat = 3 * (deliveringGapped.count.toNat + 1) ∧
    twoPixels.length = deliveringGapped.count.toNat + 1 ∧ deliveringGapped.Undisturbed 8 ∧
    deliveringGapped.received 8 = payloadBytes twoPixels ∧ deliveringGapped.cfg.stripLen < twoPixels.length :=
  ⟨rfl, rfl, rfl, rfl, rfl, rfl, rfl, ⟨running_of_all (by decide) (by decide), by decide⟩, by decide, by decide⟩

/-- Scan mode with the whole frame in the queue. -/
def arriving : State :=
  { base with link := ⟨frameBytes Config.default 1#16 twoPixels, []⟩, script := quiet 12 }

theorem witness_WellFormedFrameIsShown :
    arriving.cfg.runnable = true ∧ arriving.mode = .sync ∧ arriving.progress = 0#8 ∧
    twoPixels.length = (1#16).toNat + 1 ∧ arriving.link.q = frameBytes arriving.cfg 1#16 twoPixels ++ [] ∧
    arriving.Running (frameBytes arriving.cfg 1#16 twoPixels).length :=
  ⟨rfl, rfl, rfl, rfl, rfl, running_of_all (by decide) (by decide)⟩

/-- A whole frame of one pixel, with three idle steps among its bytes. -/
def gappedFrame : List Line := gappedHeader 0x55#8 ++ [.rx 1#8 1005#32, .rx 2#8 1006#32, .idle 1007#32, .rx 3#8 1008#32]

theorem witness_WellFormedFrameIsShownAmongIdleSteps :
    (gapped gappedFrame).cfg.runnable = true ∧ (gapped gappedFrame).mode = .sync ∧
    (gapped gappedFrame).progress = 0#8 ∧ ([(1#8, 2#8, 3#8)] : List Colour).length = (0#16).toNat + 1 ∧
    (gapped gappedFrame).Undisturbed 10 ∧
    (gapped gappedFrame).received 10 = frameBytes (gapped gappedFrame).cfg 0#16 [(1#8, 2#8, 3#8)] :=
  ⟨rfl, rfl, rfl, rfl, ⟨running_of_all (by decide) (by decide), by decide⟩, by decide⟩

/-- At 1000 ms the acknowledgment is sent, at 999 ms it is not. -/
theorem witness_AcknowledgmentSpacing :
    (idleAt Config.default 1000#32).input.rst = false ∧
    (∃ t, step (idleAt Config.default 1000#32) = .next t ∧ Command.ack ∈ t.out) ∧
    (idleAt Config.default 999#32).input.rst = false ∧
    (∃ t, step (idleAt Config.default 999#32) = .next t ∧ Command.ack ∉ t.out) :=
  ⟨rfl, ⟨_, rfl, by decide⟩, rfl, _, rfl, by decide⟩

/-- V-W6. -/
theorem witness_ZeroTimeoutNeverBlanks :
    (idleAt Config.default 4000000000#32).IdleStep ∧ (idleAt Config.default 4000000000#32).cfg.timeoutMs = 0#32 ∧
    ∃ t, step (idleAt Config.default 4000000000#32) = .next t := ⟨⟨rfl, rfl, rfl⟩, rfl, _, rfl⟩

/-- Idle steps with a timeout of 500 ms; at 1000 ms the first one blanks. -/
def silent (cfg : Config) (second third : Stamp) : State :=
  (baseWith cfg).withLines [.idle 1000#32, .idle second, .idle third]

/-- The state after the blanking at 1000 ms, with `WDG_NESTED`. -/
def rearmed (second third : Stamp) : State :=
  { baseWith timed with
    tNow := 1000#32, tLastByte := 1000#32, tLastAck := 1000#32, out := [.ack, .clear, .commit]
    sink := ⟨⟨Memory.zeros 0 6, .buf⟩, ⟨Memory.zeros 0 6, .buf⟩⟩
    script := [lineSlot (.idle second), lineSlot (.idle third)], slotNo := 1 }

/-- After the blanking an idle step below the timeout and then one at the nested condition, which blanks; without the
nested check the second blanks at the timeout. -/
theorem witness_BlankingRearms :
    (silent timed 1499#32 2000#32).IdleStep ∧
    step (silent timed 1499#32 2000#32) = .next (rearmed 1499#32 2000#32) ∧
    Command.clear ∈ (rearmed 1499#32 2000#32).out ∧ (rearmed 1499#32 2000#32).Running 1 ∧
    (rearmed 1499#32 2000#32).received 1 = [] ∧
    (∀ k, k < 1 → (((rearmed 1499#32 2000#32).inputAt k).time - (rearmed 1499#32 2000#32).tNow).toNat <
      timed.timeoutMs.toNat) ∧
    Command.clear ∉ (rearmed 1499#32 2000#32).commands 1 ∧
    (∃ u v, Host.Core.run Sys2Proof.core 1 (rearmed 1499#32 2000#32) = .next u ∧ u.IdleStep ∧ step u = .next v ∧
      Command.clear ∈ v.out) ∧
    (silent { timed with wdgNested := false } 1499#32 1500#32).IdleStep ∧
    (∃ t u v, step (silent { timed with wdgNested := false } 1499#32 1500#32) = .next t ∧ Command.clear ∈ t.out ∧
      t.received 1 = [] ∧ Command.clear ∉ t.commands 1 ∧ Host.Core.run Sys2Proof.core 1 t = .next u ∧ u.IdleStep ∧
      step u = .next v ∧ Command.clear ∈ v.out) :=
  ⟨⟨rfl, rfl, rfl⟩, rfl, by decide, running_of_all (by decide) (by decide), by decide, by decide, by decide,
    ⟨_, _, rfl, ⟨rfl, rfl, rfl⟩, rfl, by decide⟩, ⟨rfl, rfl, rfl⟩,
    ⟨_, _, _, rfl, by decide, by decide, by decide, rfl, ⟨rfl, rfl, rfl⟩, rfl, by decide⟩⟩

/-- Across the wrap, V-W8 and V-W9, for both stamps, and at the timeout of 500 ms and one below. -/
theorem witness_ElapsedTimeSurvivesTheWrap :
    999 < 2 ^ 32 ∧ 1000 < 2 ^ 32 ∧ 499 < 2 ^ 32 ∧ 500 < 2 ^ 32 ∧
    (stamped timed 743#32 0#32 4294967040#32).tNow =
      (stamped timed 743#32 0#32 4294967040#32).tLastAck + BitVec.ofNat 32 999 ∧
    (stamped timed 744#32 0#32 4294967040#32).tNow =
      (stamped timed 744#32 0#32 4294967040#32).tLastAck + BitVec.ofNat 32 1000 ∧
    (stamped timed 243#32 4294967040#32 0#32).tNow =
      (stamped timed 243#32 4294967040#32 0#32).tLastByte + BitVec.ofNat 32 499 ∧
    (stamped timed 244#32 4294967040#32 0#32).tNow =
      (stamped timed 244#32 4294967040#32 0#32).tLastByte + BitVec.ofNat 32 500 := by decide

/-- Two machines that differ in every register that is dead in scan mode. -/
theorem witness_StepKeepsLiveAgreement :
    (byteAt 0#8 0x41#8).AgreeOnLive
      { byteAt 0#8 0x41#8 with
        hi := 1#8, lo := 2#8, count := 3#16, remaining := 4#18, writePos := 5#17, chan := 1#2, acc := ⟨6#8, 7#8, 8#8⟩
        tNow := 9#32 } ∧
    ∃ t, step (byteAt 0#8 0x41#8) = .next t := by
  refine ⟨⟨rfl, rfl, rfl, rfl, rfl, rfl, rfl, rfl, rfl, fun _ h => absurd h (by decide), fun _ h => absurd h (by decide),
    fun h => ?_, fun h => ?_, fun h => ?_, fun h => ?_, fun h => ?_⟩, _, rfl⟩ <;> cases h

theorem witness_StaleRegistersAreUnobservable : base.mode = .sync ∧ base.progress = 0#8 := ⟨rfl, rfl⟩

end Sys2Proof.Tests
end

section
/-! PROOFS. The scope (spec/00_scope.md): the step answers a next state exactly within the bounds of R6. -/

namespace Sys2Proof.Machine

/-- No arm of the dispatch faults or refuses (R180). -/
theorem exec_answers (i : Instr) (s : State) : ∃ t, exec i s = .next t := by
  cases i <;> exact ⟨_, rfl⟩

/-- Within the bounds of R6 both kinds of edge answer: the reset load (R210) and the selected operation (R101). -/
theorem step_answers_of_runnable (s : State) (hc : s.cfg.runnable = true) : ∃ t, step s = .next t := by
  cases hr : s.input.rst with
  | true => exact ⟨_, step_of_reset s hc hr⟩
  | false =>
    rw [step_of_running s hc hr]
    exact exec_answers s.fetched s.prepared

/-- Outside the bounds of R6 the refusal comes before any input is looked at (D9). -/
theorem step_of_illegal (s : State) (hc : s.cfg.runnable = false) : step s = .refused .illegalConfig := by
  simp only [step, hc, Bool.false_eq_true, if_false]

/-- Settles O11: both kinds of edge answer when the parameters are in bounds, and the guard refuses otherwise. -/
theorem stepAnswersUnlessParametersIllegal : Obligations.StepAnswersUnlessParametersIllegal := by
  intro s
  exact ⟨step_answers_of_runnable s, step_of_illegal s⟩

end Sys2Proof.Machine
end

section
/-! PROOFS. The dispatch (spec/30_encoding.md R100 to R102): which operation a step selects, and in which states. -/

namespace Sys2Proof.Machine

/-- The operation that the dispatch selects in a prepared state, for the answer of the poll (R101, R102). -/
def State.selected (s : State) (rx : Option Byte) : Instr := decodeBits (s.dispatchBits rx) (rx.getD 0#8)

/-- The operation of a step is the one selected in the state on which it runs: taking the byte off the queue changes
no bit of the dispatch word. -/
theorem State.fetched_eq_selected (s : State) : s.fetched = s.prepared.selected s.rx := State.fetched_eq s

/-- An idle step selects by `A` and `T` (R102). -/
theorem State.selected_none (s : State) :
    s.selected none =
      if s.ackDue then (if s.blankDue then .wdgAckblank else .wdgAck)
      else if s.blankDue then .wdgBlank else .wdgIdle := by
  simp only [State.selected, decodeBits, State.dispatchBits, Option.isSome_none]
  cases s.ackDue <;> cases s.blankDue <;> rfl

/-- A byte step in SYNC mode selects by `progress` and by the byte (R102, R121 to R126). -/
theorem State.selected_of_sync {s : State} (hmode : s.mode = .sync) (b : Byte) :
    s.selected (some b) =
      if s.progress.toNat < s.cfg.magic.length then
        if s.cfg.magic[s.progress.toNat]? = some b then .syncHit b else .syncMiss b
      else if s.progress.toNat = s.cfg.magic.length then .hdrHi b
      else if s.progress.toNat = s.cfg.magic.length + 1 then .hdrLo b
      else if b = headerChecksum s.hi s.lo then .hdrOk b else .hdrBad b := by
  have hphase := State.phase_of_sync s hmode
  split_ifs at hphase ⊢ <;>
    simp_all [State.selected, decodeBits, State.dispatchBits, State.expectedByte, State.expectedMagic]

/-- A byte step in PAYLOAD mode selects by `write_pos`, `chan` and `remaining` (R102, R141 to R147). -/
theorem State.selected_of_payload {s : State} (hmode : s.mode = .payload) (b : Byte) :
    s.selected (some b) =
      if s.writePos.toNat < s.cfg.stripLen ∧ s.chan = 0#2 then .payR b
      else if s.writePos.toNat < s.cfg.stripLen ∧ s.chan = 1#2 then .payG b
      else if s.writePos.toNat < s.cfg.stripLen ∧ s.chan = 2#2 then
        if s.remaining.toNat ≤ 1 then .payBLast b else .payB b
      else if s.remaining.toNat ≤ 1 then .paySkipLast b else .paySkip b := by
  have hphase := State.phase_of_payload s hmode
  by_cases hpos : s.writePos.toNat < s.cfg.stripLen
  · have hchan : s.chan = 0#2 ∨ s.chan = 1#2 ∨ s.chan = 2#2 ∨ s.chan = 3#2 := by
      generalize s.chan = c
      revert c; decide
    rcases hchan with hchan | hchan | hchan | hchan <;> by_cases hrem : s.remaining.toNat ≤ 1 <;>
      simp [State.selected, decodeBits, State.dispatchBits, State.lastPayloadByte, *]
  · by_cases hrem : s.remaining.toNat ≤ 1 <;>
      simp [State.selected, decodeBits, State.dispatchBits, State.lastPayloadByte, *]

/-- The rows of R104 as a relation: the operation selected, with what the selection says of the state and of the poll
(R100, R102). `selects_selected` ties it to the dispatch. -/
inductive State.Selects (s : State) : Option Byte → Instr → Prop where
  | syncHit {b : Byte} (hmode : s.mode = .sync) (hprog : s.progress.toNat < s.cfg.magic.length)
      (hbyte : s.cfg.magic[s.progress.toNat]? = some b) : s.Selects (some b) (.syncHit b)
  | syncMiss {b : Byte} (hmode : s.mode = .sync) (hprog : s.progress.toNat < s.cfg.magic.length)
      (hbyte : s.cfg.magic[s.progress.toNat]? ≠ some b) : s.Selects (some b) (.syncMiss b)
  | hdrHi {b : Byte} (hmode : s.mode = .sync) (hprog : s.progress.toNat = s.cfg.magic.length) :
      s.Selects (some b) (.hdrHi b)
  | hdrLo {b : Byte} (hmode : s.mode = .sync) (hprog : s.progress.toNat = s.cfg.magic.length + 1) :
      s.Selects (some b) (.hdrLo b)
  | hdrOk {b : Byte} (hmode : s.mode = .sync) (hprog : s.cfg.magic.length + 2 ≤ s.progress.toNat)
      (hbyte : b = headerChecksum s.hi s.lo) : s.Selects (some b) (.hdrOk b)
  | hdrBad {b : Byte} (hmode : s.mode = .sync) (hprog : s.cfg.magic.length + 2 ≤ s.progress.toNat)
      (hbyte : b ≠ headerChecksum s.hi s.lo) : s.Selects (some b) (.hdrBad b)
  | payR {b : Byte} (hmode : s.mode = .payload) (hpos : s.writePos.toNat < s.cfg.stripLen) (hchan : s.chan = 0#2) :
      s.Selects (some b) (.payR b)
  | payG {b : Byte} (hmode : s.mode = .payload) (hpos : s.writePos.toNat < s.cfg.stripLen) (hchan : s.chan = 1#2) :
      s.Selects (some b) (.payG b)
  | payB {b : Byte} (hmode : s.mode = .payload) (hpos : s.writePos.toNat < s.cfg.stripLen) (hchan : s.chan = 2#2)
      (hrem : 1 < s.remaining.toNat) : s.Selects (some b) (.payB b)
  | payBLast {b : Byte} (hmode : s.mode = .payload) (hpos : s.writePos.toNat < s.cfg.stripLen) (hchan : s.chan = 2#2)
      (hrem : s.remaining.toNat ≤ 1) : s.Selects (some b) (.payBLast b)
  | paySkip {b : Byte} (hmode : s.mode = .payload) (hpos : s.writePos.toNat < s.cfg.stripLen → s.chan = 3#2)
      (hrem : 1 < s.remaining.toNat) : s.Selects (some b) (.paySkip b)
  | paySkipLast {b : Byte} (hmode : s.mode = .payload) (hpos : s.writePos.toNat < s.cfg.stripLen → s.chan = 3#2)
      (hrem : s.remaining.toNat ≤ 1) : s.Selects (some b) (.paySkipLast b)
  | wdgIdle (hack : ¬ s.ackDue) (hblank : ¬ s.blankDue) : s.Selects none .wdgIdle
  | wdgBlank (hack : ¬ s.ackDue) (hblank : s.blankDue) : s.Selects none .wdgBlank
  | wdgAck (hack : s.ackDue) (hblank : ¬ s.blankDue) : s.Selects none .wdgAck
  | wdgAckblank (hack : s.ackDue) (hblank : s.blankDue) : s.Selects none .wdgAckblank

/-- The operation the dispatch word gives is one that the state selects (R101, R102). -/
theorem State.selects_selected (s : State) (rx : Option Byte) : s.Selects rx (s.selected rx) := by
  cases rx with
  | none =>
    rw [State.selected_none]
    split_ifs with hack hblank hblank
    · exact .wdgAckblank hack hblank
    · exact .wdgAck hack hblank
    · exact .wdgBlank hack hblank
    · exact .wdgIdle hack hblank
  | some b =>
    cases hmode : s.mode with
    | sync =>
      rw [State.selected_of_sync hmode]
      split_ifs with hmagic hbyte hhi hlo hbyte
      · exact .syncHit hmode hmagic hbyte
      · exact .syncMiss hmode hmagic hbyte
      · exact .hdrHi hmode hhi
      · exact .hdrLo hmode hlo
      · exact .hdrOk hmode (by omega) hbyte
      · exact .hdrBad hmode (by omega) hbyte
    | payload =>
      have hskip : ¬ s.chan = 0#2 → ¬ s.chan = 1#2 → ¬ s.chan = 2#2 → s.chan = 3#2 := by
        generalize s.chan = c
        revert c; decide
      rw [State.selected_of_payload hmode]
      split_ifs with hr hg hb hrem hrem
      · exact .payR hmode hr.1 hr.2
      · exact .payG hmode hg.1 hg.2
      · exact .payBLast hmode hb.1 hb.2 hrem
      · exact .payB hmode hb.1 hb.2 (by omega)
      · exact .paySkipLast hmode (by tauto) hrem
      · exact .paySkip hmode (by tauto) (by omega)

/-- Every way a step can answer a next state, with what the selection of the operation says of the state it runs on:
the form of `step_cases` that the invariants start from. -/
theorem step_selects {s t : State} (h : step s = .next t) :
    s.cfg.runnable = true ∧
      (t = s.opened.loadReset s.input.time ∨ ∃ i, s.prepared.Selects s.rx i ∧ exec i s.prepared = .next t) := by
  obtain ⟨hc, ⟨-, ht⟩ | ⟨-, hx⟩⟩ := step_cases h
  · exact ⟨hc, .inl ht⟩
  · rw [State.fetched_eq_selected] at hx
    exact ⟨hc, .inr ⟨_, s.prepared.selects_selected s.rx, hx⟩⟩

end Sys2Proof.Machine
end

section
/-! PROOFS. What an operation emits and what it writes: the order of the output list (spec/10_state.md R35, R36) and the
writers of the registers (spec/10_state.md R37). -/

namespace Sys2Proof.Machine

/-! ### The output list -/

/-- The strobes of R35 stand for some of the five kinds of command, in the fixed order of R36. -/
theorem Ports.commands_sublist (p : Ports) :
    ∃ idx r g b, p.commands.Sublist [.ack, .clear, .set idx r g b, .commit, .flush] := by
  obtain ⟨ack, flush, clear, set?, commit⟩ := p
  have strobe (on : Bool) (c : Command) : (if on then [c] else []).Sublist [c] := by cases on <;> simp
  have around {data : List Command} {c : Command} (h : data.Sublist [c]) :=
    ((((strobe ack .ack).append (strobe clear .clear)).append h).append (strobe commit .commit)).append
      (strobe flush .flush)
  cases set? with
  | none => exact ⟨0, 0, 0, 0, around (List.nil_sublist [Command.set 0 0 0 0])⟩
  | some d => exact ⟨_, _, _, _, around (List.Sublist.refl _)⟩

/-- So each kind stands in the list at most once, and the kinds are in order. -/
theorem Ports.pairwise_commands (p : Ports) : p.commands.Pairwise (fun c d => c.rank < d.rank) := by
  obtain ⟨idx, r, g, b, hsub⟩ := p.commands_sublist
  refine List.Pairwise.sublist hsub ?_
  simp [Command.rank]

/-- What a receiver reads back from the strobes of a list that strobes can carry is those strobes. -/
theorem State.ports_of_out {s : State} {p : Ports} (h : s.out = p.commands) : s.ports = p := by
  obtain ⟨ack, flush, clear, set?, commit⟩ := p
  rw [State.ports, h]
  cases set? <;> cases ack <;> cases flush <;> cases clear <;> cases commit <;> rfl

/-- What the frame-end tail adds to the output list (R146). -/
theorem State.frameEndTail_out (s : State) :
    s.frameEndTail.out =
      s.out ++ if s.remaining.toNat ≤ 1 then .commit :: (if s.cfg.flushOnCommit then [.flush] else []) else [] := by
  split
  · rw [State.frameEndTail_of_last s ‹_›]
  · rw [State.frameEndTail_of_more s (by omega), List.append_nil]

/-- The strobes of a payload operation: its `Set`, if it writes a pixel, and those of the frame end (R141 to R147). -/
def payloadPorts (s : State) (set? : Option (PixelIndex × Byte × Byte × Byte)) : Ports where
  txAck := false
  rxFlush := decide (s.remaining.toNat ≤ 1) && s.cfg.flushOnCommit
  sinkClear := false
  sinkSet := set?
  sinkCommit := decide (s.remaining.toNat ≤ 1)

/-- The tail after a discarded or stored byte emits the strobes of the frame end alone. -/
theorem State.frameEndTail_out_of_nil {s : State} (h : s.out = []) :
    s.frameEndTail.out = (payloadPorts s none).commands := by
  rw [State.frameEndTail_out, h]
  cases hf : s.cfg.flushOnCommit <;> by_cases hrem : s.remaining.toNat ≤ 1 <;> simp [payloadPorts, Ports.commands, *]

/-- The tail after a completed pixel emits them after the `Set`. -/
theorem State.frameEndTail_out_of_set {s : State} {idx : PixelIndex} {r g b : Byte} (h : s.out = [.set idx r g b]) :
    s.frameEndTail.out = (payloadPorts s (some (idx, r, g, b))).commands := by
  rw [State.frameEndTail_out, h]
  cases hf : s.cfg.flushOnCommit <;> by_cases hrem : s.remaining.toNat ≤ 1 <;> simp [payloadPorts, Ports.commands, *]

/-- What one operation emits, strobes can carry (R35): no kind twice, in the order of R36. -/
theorem exec_out_eq_commands {i : Instr} {s t : State} (hout : s.out = []) (hx : exec i s = .next t) :
    ∃ p : Ports, t.out = p.commands := by
  cases i with
  | syncHit | syncMiss | hdrHi | hdrLo | hdrBad | wdgIdle =>
    cases hx
    exact ⟨⟨false, false, false, none, false⟩, hout⟩
  | hdrOk =>
    cases hx
    exact ⟨⟨false, false, true, none, false⟩, by simp [hout, Ports.commands]⟩
  | payR | payG | paySkip | paySkipLast =>
    cases hx
    exact ⟨_, State.frameEndTail_out_of_nil hout⟩
  | payB | payBLast =>
    cases hx
    exact ⟨_, State.frameEndTail_out_of_set (by rw [State.completePixel_out, State.bytePrologue_out, hout]; rfl)⟩
  | wdgBlank =>
    cases hx
    exact ⟨⟨false, false, true, none, true⟩, by simp [hout, Ports.commands]⟩
  | wdgAck =>
    cases hx
    exact ⟨⟨true, false, false, none, false⟩, by simp [hout, Ports.commands]⟩
  | wdgAckblank =>
    cases hx
    exact ⟨⟨true, false, true, none, true⟩, by simp [hout, Ports.commands]⟩

/-- What one step emits, strobes can carry; a reset edge emits nothing (R210). -/
theorem step_out_eq_commands {s t : State} (h : step s = .next t) : ∃ p : Ports, t.out = p.commands := by
  obtain ⟨-, ⟨-, rfl⟩ | ⟨-, hx⟩⟩ := step_cases h
  · exact ⟨⟨false, false, false, none, false⟩, rfl⟩
  · exact exec_out_eq_commands s.prepared_out hx

/-- Settles O34: the list is what some strobes stand for, so it is in order and its strobes give it back. -/
theorem outputListIsOrdered : Obligations.OutputListIsOrdered := by
  intro s t h
  obtain ⟨p, hp⟩ := step_out_eq_commands h
  rw [State.ports_of_out hp, hp]
  exact ⟨p.pairwise_commands, rfl⟩

/-! ### The writers -/

/-- Settles O38: operation by operation, every register outside its row of R37 is unchanged. -/
theorem onlyListedWriters : Obligations.OnlyListedWriters := by
  intro i s t hx
  cases i with
  | syncHit | syncMiss | hdrHi | hdrLo | hdrOk | hdrBad => cases hx; simp +contextual [Instr.operand]
  | payR | payG | payB | payBLast | paySkip | paySkipLast => cases hx; simp +contextual [Instr.operand]
  | wdgIdle | wdgBlank | wdgAck | wdgAckblank => cases hx; simp

end Sys2Proof.Machine
end

section
/-! PROOFS. The invariant of the reachable states (spec/10_state.md R40 to R45): it holds at reset, every step keeps it,
and so the registers of every reached state are in their ranges. -/

namespace Sys2Proof.Machine

/-! ### The pixel space -/

/-- The part of the invariant that speaks of the sink: both arrays canonical and on a strip of `n` pixels. -/
structure Sink.OnStrip (n : Nat) (k : Sink) : Prop where
  bufCanonical : k.buf.cells.wf = true
  shownCanonical : k.shown.cells.wf = true
  bufOnStrip : ∀ a, 3 * n ≤ a → k.buf.cells.listed a = none
  shownOnStrip : ∀ a, 3 * n ≤ a → k.shown.cells.listed a = none

/-- No command lists an address beyond the strip: a `Set` beyond it is ignored (R64). -/
theorem Sink.OnStrip.apply {n : Nat} {k : Sink} (c : Command) (h : k.OnStrip n) : (k.apply n c).OnStrip n := by
  obtain ⟨hbuf, hshown⟩ := Sink.wf_apply n c k h.bufCanonical h.shownCanonical
  refine ⟨hbuf, hshown, fun a ha => ?_, fun a ha => ?_⟩
  · have hold := h.bufOnStrip a ha
    cases c with
    | clear => simp only [Sink.apply, Pixels.listed_clear, if_neg (show ¬ a < 3 * n by omega)]
    | set idx r g b =>
      simp only [Sink.apply]
      split
      · rw [Pixels.listed_writePixel, if_neg (by omega), if_neg (by omega), if_neg (by omega), hold]
      · exact hold
    | ack | commit | flush => exact hold
  · rw [Sink.shown_apply]
    split
    · exact h.bufOnStrip a ha
    · exact h.shownOnStrip a ha

/-- Latching the buffer, as every frame end does (R65, R146). -/
theorem Sink.OnStrip.latched {n : Nat} {k : Sink} (h : k.OnStrip n) : Sink.OnStrip n ⟨k.buf, k.buf⟩ :=
  h.apply .commit

theorem State.Inv.onStrip {s : State} (h : s.Inv) : s.sink.OnStrip s.cfg.stripLen :=
  ⟨h.bufCanonical, h.shownCanonical, h.bufOnStrip, h.shownOnStrip⟩

/-! ### The registers -/

/-- In SYNC mode the invariant ties no counter to another: ranges alone are left. -/
theorem State.inv_of_sync {s : State} (hc : s.cfg.runnable = true) (hmode : s.mode = .sync) (hchan : s.chan ≠ 3#2)
    (hprog : s.progress.toNat ≤ s.cfg.magic.length + 2) (hpos : s.writePos.toNat ≤ s.cfg.stripLen)
    (hsink : s.sink.OnStrip s.cfg.stripLen) : s.Inv where
  runnable := hc
  chanSlot := hchan
  progressInRange := ⟨fun _ => hprog, fun h => by simp [hmode] at h⟩
  counterInStep := fun h => by simp [hmode] at h
  positionOnStrip := hpos
  positionOfFrame := fun h => by simp [hmode] at h
  bufCanonical := hsink.bufCanonical
  shownCanonical := hsink.shownCanonical
  bufOnStrip := hsink.bufOnStrip
  shownOnStrip := hsink.shownOnStrip

/-- Between an operation's own writes and the frame-end tail (R146): the invariant of a frame with `remaining` one
ahead, since the byte is consumed and not yet counted. -/
structure State.BeforeTail (s : State) : Prop where
  runnable : s.cfg.runnable = true
  mode : s.mode = .payload
  progress : s.progress = 0#8
  chanSlot : s.chan ≠ 3#2
  counted : s.remaining.toNat ≤ 196608
  onStrip : s.writePos.toNat < s.cfg.stripLen →
    s.remaining.toNat + 3 * s.writePos.toNat + s.chan.toNat = 3 * (s.count.toNat + 1) + 1
  atEnd : s.writePos.toNat = s.cfg.stripLen →
    s.chan = 0#2 ∧ s.remaining.toNat + 3 * s.cfg.stripLen ≤ 3 * (s.count.toNat + 1) + 1
  positionOnStrip : s.writePos.toNat ≤ s.cfg.stripLen
  positionOfFrame : s.writePos.toNat ≤ s.count.toNat + 1
  sink : s.sink.OnStrip s.cfg.stripLen

/-- The tail counts the byte, or leaves PAYLOAD mode: either way the invariant is back (R43, R44, R146). -/
theorem State.BeforeTail.inv_frameEndTail {s : State} (h : s.BeforeTail) : s.frameEndTail.Inv := by
  by_cases hmore : 1 < s.remaining.toNat
  · have hdown : (s.remaining - 1#18).toNat = s.remaining.toNat - 1 := by bv_omega
    rw [State.frameEndTail_of_more s hmore]
    refine ⟨h.runnable, h.chanSlot, ⟨fun hs => ?_, fun _ => h.progress⟩, fun _ => ⟨?_, ?_, fun hw => ?_, fun hw => ?_⟩,
      h.positionOnStrip, fun _ => h.positionOfFrame, h.sink.bufCanonical, h.sink.shownCanonical, h.sink.bufOnStrip,
      h.sink.shownOnStrip⟩
    · simp [h.mode] at hs
    · simp only [hdown]; omega
    · have := h.counted
      simp only [hdown]; omega
    · have := h.onStrip hw
      simp only [hdown]; omega
    · obtain ⟨hchan, hsum⟩ := h.atEnd hw
      refine ⟨hchan, ?_⟩
      simp only [hdown]; omega
  · rw [State.frameEndTail_of_last s (by omega)]
    exact State.inv_of_sync h.runnable rfl h.chanSlot (Nat.zero_le _) h.positionOnStrip h.sink.latched

/-! ### The operations -/

/-- The poll and the sampling of the time touch no register of the invariant (R97, R98). -/
theorem State.Inv.prepared {s : State} (h : s.Inv) : s.prepared.Inv := { h with }

/-- The acknowledgment writes nothing of which the invariant speaks (R162). -/
theorem State.Inv.acknowledge {s : State} (h : s.Inv) : s.acknowledge.Inv := { h with }

/-- The blanking leaves the block in scan mode over a cleared strip (R163). -/
theorem State.Inv.blank {s : State} (h : s.Inv) : s.blank.Inv :=
  State.inv_of_sync h.runnable rfl h.chanSlot (Nat.zero_le _) h.positionOnStrip (h.onStrip.apply .clear).latched

/-- The reset load leaves every register 0 and the sink as it was (R210, R213). -/
theorem State.Inv.loadReset {s : State} (h : s.Inv) (time0 : Stamp) : (s.loadReset time0).Inv :=
  State.inv_of_sync h.runnable rfl (by simp) (Nat.zero_le _) (Nat.zero_le _) h.onStrip

/-- In SYNC mode an operation that writes `progress`, the stamps and the header bytes alone keeps the invariant if the
progress it writes is in range (R41, R121 to R124, R126). -/
theorem State.Inv.setProgress {s : State} (h : s.Inv) (hmode : s.mode = .sync) {p : Progress} (hi lo : Byte)
    (hp : p.toNat ≤ s.cfg.magic.length + 2) : State.Inv { s.bytePrologue with progress := p, hi := hi, lo := lo } :=
  State.inv_of_sync h.runnable hmode h.chanSlot hp h.positionOnStrip h.onStrip

/-- A progress up to `L + 2` fits the register (R6, R9: `L <= 253`). -/
theorem toNat_progress_of_runnable {c : Config} (hc : c.runnable = true) {k : Nat} (hk : k ≤ 2) :
    (BitVec.ofNat 8 (c.magic.length + k)).toNat = c.magic.length + k := by
  obtain ⟨-, -, -, hmagic⟩ := (runnable_iff c).1 hc
  rw [BitVec.toNat_ofNat]; omega

/-- The payload of an accepted header: its whole length remains, from position 0 on (R125, R94). -/
theorem inv_execHdrOk {s t : State} {b : Byte} (h : s.Inv) (hx : exec (.hdrOk b) s = .next t) : t.Inv := by
  cases hx
  obtain ⟨hstrip, -, -, -⟩ := (runnable_iff s.cfg).1 h.runnable
  have hlen := payloadLength_toNat (countField s.hi s.lo)
  have hcount := (countField s.hi s.lo).isLt
  have hsink := h.onStrip.apply .clear
  refine ⟨h.runnable, by simp, ⟨by simp, fun _ => rfl⟩, fun _ => ⟨?_, ?_, fun _ => ?_, fun hw => ?_⟩, Nat.zero_le _,
    fun _ => Nat.zero_le _, hsink.bufCanonical, hsink.shownCanonical, hsink.bufOnStrip, hsink.shownOnStrip⟩
  · simp only [hlen]; omega
  · simp only [hlen]; omega
  · simp [hlen]
  · have hw : 0 = s.cfg.stripLen := hw
    omega

/-- A colour byte moves the slot by one (R141, R142, R44). -/
theorem State.Inv.beforeTail_of_colour {s : State} (h : s.Inv) (hmode : s.mode = .payload)
    (hpos : s.writePos.toNat < s.cfg.stripLen) (acc : Acc) {chan : BitVec 2} (hchan : chan ≠ 3#2)
    (hnext : chan.toNat = s.chan.toNat + 1) : State.BeforeTail { s.bytePrologue with acc := acc, chan := chan } := by
  obtain ⟨-, hhigh, hsum, -⟩ := h.counterInStep hmode
  have hsum := hsum hpos
  exact
    { runnable := h.runnable
      mode := hmode
      progress := h.progressInRange.2 hmode
      chanSlot := hchan
      counted := hhigh
      onStrip := fun _ => by
        simp only [State.bytePrologue_remaining, State.bytePrologue_writePos, State.bytePrologue_count, hnext]
        omega
      atEnd := fun hw => absurd hw (Nat.ne_of_lt hpos)
      positionOnStrip := h.positionOnStrip
      positionOfFrame := h.positionOfFrame hmode
      sink := h.onStrip }

/-- A completed pixel moves the position by one and the slot back to 0: three bytes either way (R143, R44). -/
theorem State.Inv.beforeTail_completePixel {s : State} (h : s.Inv) (hmode : s.mode = .payload)
    (hpos : s.writePos.toNat < s.cfg.stripLen) (hchan : s.chan = 2#2) (b : Byte) :
    (s.bytePrologue.completePixel b).BeforeTail := by
  obtain ⟨-, hstrip, -, -⟩ := (runnable_iff s.cfg).1 h.runnable
  obtain ⟨hlow, hhigh, hsum, -⟩ := h.counterInStep hmode
  have hsum : s.remaining.toNat + 3 * s.writePos.toNat + 2 = 3 * (s.count.toNat + 1) := by
    have := hsum hpos
    rwa [hchan] at this
  have hnext : (s.bytePrologue.completePixel b).writePos.toNat = s.writePos.toNat + 1 := by
    rw [State.completePixel_writePos, State.bytePrologue_writePos]
    bv_omega
  exact
    { runnable := h.runnable
      mode := hmode
      progress := h.progressInRange.2 hmode
      chanSlot := by simp
      counted := hhigh
      onStrip := fun _ => by
        simp only [hnext, State.completePixel_remaining, State.completePixel_chan, State.completePixel_count,
          State.bytePrologue_remaining, State.bytePrologue_count, BitVec.toNat_ofNat]
        omega
      atEnd := fun hw => by
        simp only [hnext, State.completePixel_cfg, State.bytePrologue_cfg] at hw
        simp only [State.completePixel_remaining, State.completePixel_cfg, State.completePixel_count,
          State.completePixel_chan, State.bytePrologue_remaining, State.bytePrologue_cfg, State.bytePrologue_count,
          true_and]
        omega
      positionOnStrip := hnext ▸ hpos
      positionOfFrame := by
        rw [hnext, State.completePixel_count, State.bytePrologue_count]
        omega
      sink := h.onStrip.apply (.set s.pixelIndex s.acc.red s.acc.green b) }

/-- Beyond the strip no register but the counter moves (R145, R44). -/
theorem State.Inv.beforeTail_of_skip {s : State} (h : s.Inv) (hmode : s.mode = .payload)
    (hpos : s.writePos.toNat < s.cfg.stripLen → s.chan = 3#2) : s.bytePrologue.BeforeTail := by
  obtain ⟨-, hhigh, -, hsum⟩ := h.counterInStep hmode
  have hoff : ¬ s.writePos.toNat < s.cfg.stripLen := fun hw => h.chanSlot (hpos hw)
  exact
    { runnable := h.runnable
      mode := hmode
      progress := h.progressInRange.2 hmode
      chanSlot := h.chanSlot
      counted := hhigh
      onStrip := fun hw => absurd hw hoff
      atEnd := fun hw => ⟨(hsum hw).1, Nat.le_succ_of_le (hsum hw).2⟩
      positionOnStrip := h.positionOnStrip
      positionOfFrame := h.positionOfFrame hmode
      sink := h.onStrip }

/-- The operation a state selects keeps the invariant. -/
theorem State.Selects.inv_exec {s t : State} {rx : Option Byte} {i : Instr} (hsel : s.Selects rx i) (h : s.Inv)
    (hx : exec i s = .next t) : t.Inv := by
  cases hsel with
  | syncHit hmode hprog =>
    cases hx
    obtain ⟨-, -, -, hmagic⟩ := (runnable_iff s.cfg).1 h.runnable
    exact h.setProgress hmode _ _ (by bv_omega)
  | syncMiss hmode | hdrBad hmode =>
    cases hx
    exact h.setProgress hmode _ _ (Nat.zero_le _)
  | hdrHi hmode =>
    cases hx
    exact h.setProgress hmode _ _ (by simp [toNat_progress_of_runnable h.runnable (k := 1)])
  | hdrLo hmode =>
    cases hx
    exact h.setProgress hmode _ _ (by simp [toNat_progress_of_runnable h.runnable (k := 2)])
  | hdrOk => exact inv_execHdrOk h hx
  | payR hmode hpos hchan | payG hmode hpos hchan =>
    cases hx
    exact (h.beforeTail_of_colour hmode hpos _ (by decide) (by simp [hchan])).inv_frameEndTail
  | payB hmode hpos hchan | payBLast hmode hpos hchan =>
    cases hx
    exact (h.beforeTail_completePixel hmode hpos hchan _).inv_frameEndTail
  | paySkip hmode hpos | paySkipLast hmode hpos =>
    cases hx
    exact (h.beforeTail_of_skip hmode hpos).inv_frameEndTail
  | wdgIdle => cases hx; exact h
  | wdgBlank => cases hx; exact h.blank
  | wdgAck => cases hx; exact h.acknowledge
  | wdgAckblank => cases hx; exact h.acknowledge.blank

/-- Settles O32: a reset edge loads a state of the invariant, and each operation keeps it where it is selected. -/
theorem stepKeepsInvariant : Obligations.StepKeepsInvariant := by
  intro s t h hstep
  obtain ⟨-, rfl | ⟨i, hsel, hx⟩⟩ := step_selects hstep
  · have hopen : s.opened.Inv := { h with }
    exact hopen.loadReset _
  · exact hsel.inv_exec h.prepared hx

/-- The reset state meets the invariant under all parameters in bounds (R38). -/
theorem inv_resetWith {cfg : Config} (hc : cfg.runnable = true) (time0 : Stamp) : (State.resetWith cfg time0).Inv :=
  State.inv_of_sync hc rfl (by simp [State.resetWith]) (Nat.zero_le _) (Nat.zero_le _)
    ⟨rfl, rfl, fun _ _ => rfl, fun _ _ => rfl⟩

/-- Settles O31: after reset the registers are 0, the mode is SYNC, and no byte of the sink is listed. -/
theorem invariantHoldsAtReset : Obligations.InvariantHoldsAtReset :=
  ⟨fun _ time0 hc => inv_resetWith hc time0, inv_resetWith rfl 0#32⟩

/-! ### Runs -/

/-- What holds at the start of a run and is kept by every step holds at its end. -/
theorem run_induction {P : State → Prop} (hstep : ∀ s t, P s → step s = .next t → P t) {n : Nat} {s t : State}
    (h : P s) (hrun : Host.Core.run Sys2Proof.core n s = .next t) : P t := by
  induction n generalizing s with
  | zero => cases hrun; exact h
  | succ n ih =>
    cases hs : step s with
    | next u =>
      rw [run_succ hs] at hrun
      exact ih (hstep s u h hs) hrun
    | fault r => cases r
    | refused r =>
      have hs' : Sys2Proof.core.step s = .refused r := hs
      simp [Host.Core.run, hs'] at hrun

/-- No step writes the parameters (R34). -/
theorem step_cfg {s t : State} (h : step s = .next t) : t.cfg = s.cfg := by
  obtain ⟨-, ⟨-, rfl⟩ | ⟨-, hx⟩⟩ := step_cases h
  · rfl
  · exact (onlyListedWriters _ _ _ hx).1

/-- Settles O33: the invariant holds along every run from reset, and it gives the ranges. -/
theorem reachableStatesKeepTheirRanges : Obligations.ReachableStatesKeepTheirRanges := by
  intro cfg time0 script n t hc hrun
  have hstart : State.Inv { State.resetWith cfg time0 with script := script } := { inv_resetWith hc time0 with }
  obtain ⟨h, rfl⟩ : t.Inv ∧ t.cfg = cfg :=
    run_induction (P := fun s => s.Inv ∧ s.cfg = cfg)
      (fun s u ⟨hinv, hcfg⟩ hstep => ⟨stepKeepsInvariant s u hinv hstep, (step_cfg hstep).trans hcfg⟩)
      ⟨hstart, rfl⟩ hrun
  refine ⟨h.chanSlot, h.progressInRange.1, h.progressInRange.2, fun hmode => ?_, h.positionOnStrip, h.positionOfFrame⟩
  obtain ⟨hlow, hhigh, -, -⟩ := h.counterInStep hmode
  exact ⟨hlow, hhigh⟩

end Sys2Proof.Machine
end

section
/-! PROOFS. What cannot be seen (spec/10_state.md R37, R38): two machines that agree on their live registers select the
same operation, emit the same list and agree again. -/

namespace Sys2Proof.Machine

/-- Two machines inside one step: they agree on the live registers, and on what the step itself has fixed, the sampled
time and the outputs so far. -/
structure State.AgreeInStep (s u : State) : Prop extends State.AgreeOnLive s u where
  tNow : u.tNow = s.tNow
  out : u.out = s.out
  rxTake : u.rxTake = s.rxTake

/-! ### Up to the dispatch -/

/-- Machines that agree take the same inputs (R15). -/
theorem State.AgreeOnLive.input {s u : State} (h : s.AgreeOnLive u) : u.input = s.input :=
  State.inputAt_congr h.script h.slotNo 0

/-- Their polls answer the same (R71). -/
theorem State.AgreeOnLive.rx {s u : State} (h : s.AgreeOnLive u) : u.rx = s.rx := by
  rw [State.rx_eq, State.rx_eq, h.link, h.input]

/-- The sampling makes them agree on `t_now` too (R98). -/
theorem State.AgreeOnLive.prepared {s u : State} (h : s.AgreeOnLive u) : s.prepared.AgreeInStep u.prepared :=
  { h with
    link := by simp only [State.prepared_link, h.link, h.input]
    script := congrArg List.tail h.script
    slotNo := congrArg (· + 1) h.slotNo
    tNow := congrArg Slot.time h.input
    out := rfl
    rxTake := congrArg Option.isSome h.rx }

/-- The phase reads live registers alone: `write_pos` and `chan` in PAYLOAD mode (R100). -/
theorem State.AgreeOnLive.phase {s u : State} (h : s.AgreeOnLive u) : u.phase = s.phase := by
  cases hmode : s.mode with
  | sync => rw [State.phase_of_sync s hmode, State.phase_of_sync u (h.mode.trans hmode), h.progress, h.cfg]
  | payload =>
    rw [State.phase_of_payload s hmode, State.phase_of_payload u (h.mode.trans hmode), h.writePos hmode,
      h.chan hmode, h.cfg]

/-- In SYNC mode the checksum is compared in phase 3 alone, where both header bytes are captured (R95, R100). -/
theorem State.AgreeOnLive.expectedByte {s u : State} (h : s.AgreeOnLive u) (rx : Option Byte) :
    u.expectedByte rx = s.expectedByte rx := by
  cases rx with
  | none => rfl
  | some b =>
    cases hmode : s.mode with
    | payload => simp only [State.expectedByte, h.mode, hmode]
    | sync =>
      have hsum : s.phase = 3 → headerChecksum u.hi u.lo = headerChecksum s.hi s.lo := by
        intro hphase
        have hprog : s.cfg.magic.length + 2 ≤ s.progress.toNat := by
          rw [State.phase_of_sync s hmode] at hphase
          split_ifs at hphase <;> omega
        rw [h.hi hmode (by omega), h.lo hmode hprog]
      simp only [State.expectedByte, h.mode, hmode, h.phase, State.expectedMagic, h.cfg, h.progress]
      split
      · rfl
      · split
        · rw [hsum ‹_›]
        · rfl

/-- Machines that agree inside a step form the same dispatch word (R100). -/
theorem State.AgreeInStep.dispatchBits {s u : State} (h : s.AgreeInStep u) (rx : Option Byte) :
    u.dispatchBits rx = s.dispatchBits rx := by
  have hlast : u.lastPayloadByte = s.lastPayloadByte := by
    rw [Bool.eq_iff_iff, State.lastPayloadByte_iff, State.lastPayloadByte_iff, h.mode]
    exact and_congr_right fun hmode => by rw [h.remaining hmode]
  have hack : u.ackDue = s.ackDue := by
    rw [Bool.eq_iff_iff, State.ackDue_iff, State.ackDue_iff, h.tNow, h.tLastAck]
  have hblank : u.blankDue = s.blankDue := by
    rw [Bool.eq_iff_iff, State.blankDue_iff, State.blankDue_iff, State.windowExpired_iff, State.windowExpired_iff,
      hack, h.tNow, h.tLastByte, h.cfg]
  simp only [State.dispatchBits, h.mode, h.phase, h.expectedByte, hlast, hack, hblank]

/-- So they select the same operation (R101). -/
theorem State.AgreeInStep.selected {s u : State} (h : s.AgreeInStep u) (rx : Option Byte) :
    u.selected rx = s.selected rx := by
  rw [State.selected, State.selected, h.dispatchBits]

/-! ### The shared operations -/

theorem State.AgreeInStep.emit {s u : State} (h : s.AgreeInStep u) (c : Command) :
    (s.emit c).AgreeInStep (u.emit c) :=
  { h with
    sink := by simp only [State.emit_sink, h.sink, h.cfg]
    link := by simp only [State.emit_link, h.link, h.cfg]
    out := congrArg (· ++ [c]) h.out }

theorem State.AgreeInStep.bytePrologue {s u : State} (h : s.AgreeInStep u) :
    s.bytePrologue.AgreeInStep u.bytePrologue :=
  { h with
    tLastByte := h.tNow
    tLastAck := by simp only [State.bytePrologue_tLastAck, h.cfg, h.tNow, h.tLastAck] }

/-- In scan mode every header and payload register is dead (R38). -/
theorem State.AgreeInStep.toScan {s u : State} (h : s.AgreeInStep u) : s.toScan.AgreeInStep u.toScan :=
  { h with
    mode := rfl
    progress := rfl
    hi := fun _ hprog => absurd hprog (Nat.not_succ_le_zero _)
    lo := fun _ hprog => absurd hprog (Nat.not_succ_le_zero _)
    remaining := nofun
    writePos := nofun
    chan := nofun
    red := nofun
    green := nofun }

theorem State.AgreeInStep.endFrame {s u : State} (h : s.AgreeInStep u) : s.endFrame.AgreeInStep u.endFrame := by
  simp only [State.endFrame, h.cfg]
  split
  · exact ((h.emit .commit).emit .flush).toScan
  · exact (h.emit .commit).toScan

/-- The tail reads `remaining`, which is live in PAYLOAD mode (R146). -/
theorem State.AgreeInStep.frameEndTail {s u : State} (h : s.AgreeInStep u) (hmode : s.mode = .payload) :
    s.frameEndTail.AgreeInStep u.frameEndTail := by
  have hrem : u.countDown.remaining = s.countDown.remaining := by
    simp only [State.countDown_remaining, h.remaining hmode]
  have hdown : s.countDown.AgreeInStep u.countDown := { h with remaining := fun _ => hrem }
  simp only [State.frameEndTail, hrem]
  split
  · exact hdown.endFrame
  · exact hdown

/-- The pixel is formed from red and green after both are stored, at a live position (R143, R68). -/
theorem State.AgreeInStep.completePixel {s u : State} (h : s.AgreeInStep u) (hmode : s.mode = .payload)
    (hchan : s.chan = 2#2) (b : Byte) : (s.completePixel b).AgreeInStep (u.completePixel b) := by
  have hset : Command.set u.pixelIndex u.acc.red u.acc.green b = .set s.pixelIndex s.acc.red s.acc.green b := by
    rw [State.pixelIndex, State.pixelIndex, h.cfg, h.writePos hmode, h.red hmode (by simp [hchan]),
      h.green hmode (by simp [hchan]) (by simp [hchan])]
  have hemit := h.emit (.set s.pixelIndex s.acc.red s.acc.green b)
  rw [State.completePixel, State.completePixel, hset]
  exact
    { hemit with
      writePos := fun _ => by simp only [h.writePos hmode]
      chan := fun _ => rfl
      red := fun _ h0 => absurd rfl h0
      green := fun _ h0 => absurd rfl h0 }

theorem State.AgreeInStep.acknowledge {s u : State} (h : s.AgreeInStep u) :
    s.acknowledge.AgreeInStep u.acknowledge :=
  { h.emit .ack with tLastAck := h.tNow }

theorem State.AgreeInStep.blank {s u : State} (h : s.AgreeInStep u) : s.blank.AgreeInStep u.blank :=
  { ((h.emit .clear).emit .commit).toScan with tLastByte := h.tNow }

/-- In SYNC mode a progress that both machines write and by which no header byte is captured leaves them in agreement
(R121, R122, R126). -/
theorem State.AgreeInStep.setProgress {s u : State} (h : s.AgreeInStep u) {p q : Progress} (hpq : q = p)
    (hp : p.toNat ≤ s.cfg.magic.length) :
    State.AgreeInStep { s with progress := p } { u with progress := q } :=
  { h with
    progress := hpq
    hi := fun _ hprog => absurd hprog (Nat.not_le_of_lt (Nat.lt_succ_of_le hp))
    lo := fun _ hprog => absurd hprog (Nat.not_le_of_lt (Nat.lt_succ_of_lt (Nat.lt_succ_of_le hp))) }

/-! ### The operations -/

/-- The selected operation keeps the agreement of the two machines on which it runs. -/
theorem State.Selects.agree_exec {s u t : State} {rx : Option Byte} {i : Instr} (hsel : s.Selects rx i)
    (hc : s.cfg.runnable = true) (h : s.AgreeInStep u) (hx : exec i s = .next t) :
    ∃ v, exec i u = .next v ∧ t.AgreeInStep v := by
  obtain ⟨-, -, -, hmagic⟩ := (runnable_iff s.cfg).1 hc
  have hb := h.bytePrologue
  cases hsel with
  | syncHit hmode hprog =>
    cases hx
    exact ⟨_, rfl, hb.setProgress (by rw [h.progress]) (by rw [State.bytePrologue_cfg]; bv_omega)⟩
  | syncMiss | hdrBad =>
    cases hx
    exact ⟨_, rfl, hb.setProgress rfl (Nat.zero_le _)⟩
  | hdrHi hmode hprog =>
    cases hx
    refine ⟨_, rfl, { hb with progress := by simp only [h.cfg], hi := fun _ _ => rfl, lo := fun _ hcap => ?_ }⟩
    simp [toNat_progress_of_runnable hc (k := 1)] at hcap
  | hdrLo hmode hprog =>
    cases hx
    exact ⟨_, rfl,
      { hb with
        progress := by simp only [h.cfg]
        hi := fun _ _ => h.hi hmode (by omega)
        lo := fun _ _ => rfl }⟩
  | hdrOk hmode hprog =>
    cases hx
    exact ⟨_, rfl,
      { hb.emit .clear with
        mode := rfl
        progress := rfl
        hi := nofun
        lo := nofun
        remaining := fun _ => by simp only [h.hi hmode (by omega), h.lo hmode hprog]
        writePos := fun _ => rfl
        chan := fun _ => rfl
        red := fun _ h0 => absurd rfl h0
        green := fun _ h0 => absurd rfl h0 }⟩
  | payR hmode hpos hchan =>
    cases hx
    refine ⟨_, rfl, State.AgreeInStep.frameEndTail
      { hb with chan := fun _ => rfl, red := fun _ _ => rfl, green := fun _ _ h1 => absurd rfl h1 } hmode⟩
  | payG hmode hpos hchan =>
    cases hx
    refine ⟨_, rfl, State.AgreeInStep.frameEndTail
      { hb with
        chan := fun _ => rfl
        red := fun _ _ => h.red hmode (by simp [hchan])
        green := fun _ _ _ => rfl } hmode⟩
  | payB hmode hpos hchan | payBLast hmode hpos hchan =>
    cases hx
    exact ⟨_, rfl, (hb.completePixel hmode hchan _).frameEndTail hmode⟩
  | paySkip hmode | paySkipLast hmode =>
    cases hx
    exact ⟨_, rfl, hb.frameEndTail hmode⟩
  | wdgIdle => cases hx; exact ⟨_, rfl, h⟩
  | wdgBlank => cases hx; exact ⟨_, rfl, h.blank⟩
  | wdgAck => cases hx; exact ⟨_, rfl, h.acknowledge⟩
  | wdgAckblank => cases hx; exact ⟨_, rfl, h.acknowledge.blank⟩

/-- A reset edge loads the same registers into both machines (R210). -/
theorem State.AgreeOnLive.loadReset {s u : State} (h : s.AgreeOnLive u) :
    State.AgreeOnLive (s.opened.loadReset s.input.time) (u.opened.loadReset u.input.time) where
  cfg := h.cfg
  mode := rfl
  progress := rfl
  tLastByte := congrArg Slot.time h.input
  tLastAck := congrArg Slot.time h.input
  sink := h.sink
  link := by simp only [State.loadReset_link, State.opened_link, h.link, h.input]
  script := congrArg List.tail h.script
  slotNo := congrArg (· + 1) h.slotNo
  hi := fun _ _ => rfl
  lo := fun _ _ => rfl
  remaining := fun _ => rfl
  writePos := fun _ => rfl
  chan := fun _ => rfl
  red := fun _ _ => rfl
  green := fun _ _ _ => rfl

/-- Settles O56: the two machines take the same reset edge, or select one operation, which keeps the agreement. -/
theorem stepKeepsLiveAgreement : Obligations.StepKeepsLiveAgreement := by
  intro s u t h hstep
  obtain ⟨hc, ⟨hrst, rfl⟩ | ⟨hrst, hx⟩⟩ := step_cases hstep
  · have hu := step_of_reset u (by rw [h.cfg, hc]) (by rw [h.input, hrst])
    exact ⟨_, hu, rfl, rfl, h.loadReset⟩
  · have hu := step_of_running u (by rw [h.cfg, hc]) (by rw [h.input, hrst])
    rw [State.fetched_eq_selected] at hx hu
    rw [h.rx, h.prepared.selected] at hu
    obtain ⟨v, hv, hagree⟩ := (s.prepared.selects_selected s.rx).agree_exec hc h.prepared hx
    exact ⟨v, hu.trans hv, hagree.out, hagree.rxTake, hagree.toAgreeOnLive⟩

/-! ### Runs -/

/-- Machines that agree issue the same commands for any number of steps. -/
theorem State.AgreeOnLive.commands {s u : State} (h : s.AgreeOnLive u) (n : Nat) : u.commands n = s.commands n := by
  induction n generalizing s u with
  | zero => rfl
  | succ n ih =>
    cases hc : s.cfg.runnable with
    | false =>
      have hs := step_of_illegal s hc
      have hu := step_of_illegal u (by rw [h.cfg, hc])
      simp only [State.commands, hs, hu]
    | true =>
      obtain ⟨t, ht⟩ := step_answers_of_runnable s hc
      obtain ⟨v, hv, hout, -, hagree⟩ := stepKeepsLiveAgreement s u t h ht
      rw [State.commands_succ ht, State.commands_succ hv, hout, ih hagree]

/-- Settles O57: in scan mode the seven registers are dead, so the two machines agree, and they go on agreeing. -/
theorem staleRegistersAreUnobservable : Obligations.StaleRegistersAreUnobservable := by
  intro s hi lo count remaining writePos chan acc n hmode hprog
  refine State.AgreeOnLive.commands ?_ n
  refine ⟨rfl, rfl, rfl, rfl, rfl, rfl, rfl, rfl, rfl, ?hi, ?lo, ?_, ?_, ?_, ?_, ?_⟩
  case hi | lo =>
    intro _ hcap
    simp [hprog] at hcap
  all_goals
    intro hpay
    simp [hmode] at hpay

end Sys2Proof.Machine
end

section
/-! PROOFS. The pixel space (spec/20_memory.md): what each command does at its receiver (R63 to R65, R72, R73), which
bytes each operation stores, and when the shown image changes (R67). -/

namespace Sys2Proof.Machine

/-! ### The commands at their receivers -/

/-- Settles O27: `Clear` and `Set` are a clear and a pixel write of the buffer, and `Commit` alone reaches the shown
image. -/
theorem sinkCommands : Obligations.SinkCommands := by
  intro s idx r g b j
  refine ⟨Pixels.pixel_clear _ _ j, rfl, ?_, Sink.shown_apply _ (.set idx r g b) _, rfl, rfl⟩
  simp only [State.emit_sink, Sink.apply]
  by_cases hidx : idx.toNat < s.cfg.stripLen
  · simp only [hidx, if_true, true_and]
    exact Pixels.pixel_writePixel _ _ _ _ _ _ _ hidx
  · simp only [hidx, if_false, false_and]

/-- Settles O28: each receiver takes its own commands and passes over the others (R14). -/
theorem transportCommands : Obligations.TransportCommands := by
  intro s idx r g b
  refine ⟨rfl, rfl, rfl, rfl, rfl, rfl, ?others⟩
  case others => simp [Link.apply]

/-! ### The bytes of an array -/

/-- Exactly the addresses of the array hold a byte (R60). -/
theorem Pixels.read_isSome (n : Nat) (k : Pixels) (a : Nat) : (k.read n a).isSome = true ↔ a < 3 * n := by
  simp only [Pixels.read]
  split <;> simp [*]

/-- An array that nothing has written holds the free bytes of its own content (R62, U10). -/
theorem Pixels.read_of_unwritten {n : Nat} {k : Pixels} {a : Nat} (hk : k.cells = []) (ha : a < 3 * n) :
    k.read n a = some (Config.powerOnByte k.before a) := by
  simp [Pixels.read, ha, hk, Pixels.unlisted]

/-- A pixel write leaves the bytes of every other pixel as they were (R64). -/
theorem Pixels.read_writePixel_outside {n : Nat} (k : Pixels) {i a : Nat} (r g b : Byte) (hi : i < n)
    (ha : ¬ (3 * i ≤ a ∧ a < 3 * i + 3)) : (k.writePixel i r g b).read n a = k.read n a := by
  rw [Pixels.read_writePixel _ _ _ _ _ _ _ hi, if_neg (by omega), if_neg (by omega), if_neg (by omega)]

/-- A reset edge does not reach the sink (R213). -/
theorem step_sink_of_reset {s t : State} (hrst : s.input.rst = true) (h : step s = .next t) : t.sink = s.sink := by
  obtain ⟨-, ⟨-, rfl⟩ | ⟨hrun, -⟩⟩ := step_cases h
  · rfl
  · simp [hrst] at hrun

/-- Settles O29: a read falls back on the free content at every address that no write has listed. -/
theorem sinkIsArbitraryUntilWritten : Obligations.SinkIsArbitraryUntilWritten := by
  refine ⟨Pixels.read_isSome, ?reset, ?write, fun s t => step_sink_of_reset⟩
  case reset => exact fun cfg time0 a ha => ⟨Pixels.read_of_unwritten rfl ha, Pixels.read_of_unwritten rfl ha⟩
  case write =>
    intro n k i r g b a hk hi ha hout
    rw [Pixels.read_writePixel_outside k r g b hi hout, Pixels.read_of_unwritten hk ha]

/-! ### The operations -/

/-- The frame-end tail latches the buffer exactly on the last payload byte (R146). -/
theorem State.frameEndTail_shown (s : State) :
    s.frameEndTail.sink.shown = if s.remaining.toNat ≤ 1 then s.sink.buf else s.sink.shown := by
  split
  · rw [State.frameEndTail_of_last s ‹_›]
  · rw [State.frameEndTail_of_more s (by omega)]

/-- With more payload to come the tail leaves the shown image as it was (R146). -/
theorem State.frameEndTail_shown_of_more {s : State} (h : 1 < s.remaining.toNat) :
    s.frameEndTail.sink.shown = s.sink.shown := by
  rw [State.frameEndTail_shown, if_neg (by omega)]

/-- The prologue writes none of what the index is formed from (R68, R99). -/
theorem State.bytePrologue_pixelIndex (s : State) : s.bytePrologue.pixelIndex = s.pixelIndex := rfl

/-- A completed pixel is written without a latch (R64, R143). -/
theorem State.completePixel_shown (s : State) (b : Byte) : (s.completePixel b).sink.shown = s.sink.shown :=
  Sink.shown_apply _ _ _

/-- Settles O24: the two operations are one `Set` and the tail, which stores nothing. -/
theorem pixelStoreFrame : Obligations.PixelStoreFrame := by
  intro s t b i hi hx
  have ht : t = (s.bytePrologue.completePixel b).frameEndTail := by
    rcases hi with rfl | rfl <;> · cases hx; rfl
  subst ht
  refine ⟨fun a => ?buf, fun hmore a => ?shown⟩
  case buf =>
    rw [State.frameEndTail_buf, State.completePixel_sink, State.bytePrologue_cfg, Sink.read_buf_apply]
    simp only [State.bytePrologue_pixelIndex, State.bytePrologue_acc, State.bytePrologue_sink]
    -- The three addresses are distinct, so the order in which they are compared does not matter.
    grind
  case shown =>
    have htail := State.frameEndTail_shown_of_more (s := s.bytePrologue.completePixel b) hmore
    rw [htail, State.completePixel_shown, State.bytePrologue_sink]

/-- Settles O25: each of the three clears the buffer, and the two blankings latch it. -/
theorem clearFrame : Obligations.ClearFrame := by
  intro s t b i hi hx
  rcases hi with rfl | rfl | rfl
  case inl =>
    cases hx
    exact ⟨Pixels.read_clear _ _, fun _ => (if_pos rfl).symm⟩
  case inr.inl | inr.inr =>
    cases hx
    refine ⟨Pixels.read_clear _ _, fun a => ?_⟩
    rw [if_neg nofun]
    exact Pixels.read_clear _ _ a

/-- Settles O26: the first seven emit no command of the sink, the other four only the `Commit` of the frame end. -/
theorem nonStoringFrame : Obligations.NonStoringFrame := by
  intro s t b i hx
  refine ⟨fun hi a => ?keeps, fun hi a => ?payload⟩
  case keeps =>
    have hsink : t.sink = s.sink := by
      fin_cases hi <;> · cases hx; rfl
    rw [hsink]
    exact ⟨rfl, rfl⟩
  case payload =>
    obtain ⟨u, hsink, hrem, rfl⟩ : ∃ u : State, u.sink = s.sink ∧ u.remaining = s.remaining ∧ t = u.frameEndTail := by
      fin_cases hi <;> · cases hx; exact ⟨_, by rfl, by rfl, rfl⟩
    rw [State.frameEndTail_buf, hsink]
    exact ⟨rfl, fun hmore => by rw [State.frameEndTail_shown_of_more (hrem ▸ hmore), hsink]⟩

/-! ### The steps -/

/-- The tail shows the buffer if it emits the first `Commit` of the step, else what was shown. -/
theorem State.frameEndTail_shown_of_out {s : State} (hout : Command.commit ∉ s.out) :
    s.frameEndTail.sink.shown =
      if Command.commit ∈ s.frameEndTail.out then s.frameEndTail.sink.buf else s.sink.shown := by
  rw [State.frameEndTail_shown, State.frameEndTail_out, State.frameEndTail_buf]
  by_cases hlast : s.remaining.toNat ≤ 1 <;> simp [hlast, hout]

/-- What an operation shows: the buffer it leaves if it emits a `Commit`, else what was shown (R67). -/
theorem exec_shown {i : Instr} {s t : State} (hout : s.out = []) (hx : exec i s = .next t) :
    t.sink.shown = if Command.commit ∈ t.out then t.sink.buf else s.sink.shown := by
  cases i with
  | syncHit | syncMiss | hdrHi | hdrLo | hdrOk | hdrBad | wdgIdle | wdgAck =>
    cases hx
    simp [hout, Sink.apply]
  | payR | payG | paySkip | paySkipLast =>
    cases hx
    exact State.frameEndTail_shown_of_out (by simp [hout])
  | payB | payBLast =>
    cases hx
    rw [State.frameEndTail_shown_of_out (by simp [hout]), State.completePixel_shown, State.bytePrologue_sink]
  | wdgBlank | wdgAckblank =>
    cases hx
    simp

/-- What a step shows, reset edges included: they emit nothing and keep the sink (R67, R213). -/
theorem step_shown {s t : State} (h : step s = .next t) :
    t.sink.shown = if Command.commit ∈ t.out then t.sink.buf else s.sink.shown := by
  obtain ⟨-, ⟨-, rfl⟩ | ⟨-, hx⟩⟩ := step_cases h
  · simp
  · exact exec_shown (s := s.prepared) s.prepared_out hx

/-- A blanking step ends with `Commit` and shows the cleared buffer (R163, R164). -/
theorem step_of_blanking {s t : State} (h : step s = .next t) (hrun : s.input.rst = false)
    (hblank : s.fetched = .wdgBlank ∨ s.fetched = .wdgAckblank) :
    Command.commit ∈ t.out ∧ t.sink.shown = s.sink.buf.clear s.cfg.stripLen := by
  obtain ⟨-, ⟨hrst, -⟩ | ⟨-, hx⟩⟩ := step_cases h
  · simp [hrst] at hrun
  · rcases hblank with hi | hi <;>
    · rw [hi] at hx
      cases hx
      simp

/-- Settles O30: what a step shows is decided by whether it emits a `Commit`, as a blanking does over a cleared
buffer. -/
theorem shownChangesOnlyByCommit : Obligations.ShownChangesOnlyByCommit := by
  intro s t h
  have hshown := step_shown h
  refine ⟨fun hchanged => ?_, fun hcommit => ?_, fun hrun hblank => ?_⟩
  · by_contra hcommit
    exact hchanged (by rw [hshown, if_neg hcommit])
  · rw [hshown, if_pos hcommit]
  · obtain ⟨hcommit, hclear⟩ := step_of_blanking h hrun hblank
    refine ⟨hcommit, fun j hj => ?_⟩
    rw [hclear]
    exact Pixels.pixel_clear _ _ j hj

/-- The tail emits no `Set` (R146). -/
theorem State.set_mem_frameEndTail_out (s : State) (idx : PixelIndex) (r g b : Byte) :
    Command.set idx r g b ∈ s.frameEndTail.out ↔ Command.set idx r g b ∈ s.out := by
  rw [State.frameEndTail_out]
  split_ifs <;> simp

/-- The only operations that emit a `Set` are PAY.B and PAY.B.LAST, and it carries the completed pixel to the index
that they form (R143, R144). -/
theorem exec_set {i : Instr} {s t : State} {idx : PixelIndex} {r g b : Byte} (hout : s.out = [])
    (hx : exec i s = .next t) (hset : Command.set idx r g b ∈ t.out) :
    (i = .payB b ∨ i = .payBLast b) ∧ idx = s.pixelIndex ∧ r = s.acc.red ∧ g = s.acc.green := by
  cases i with
  | syncHit | syncMiss | hdrHi | hdrLo | hdrOk | hdrBad | wdgIdle | wdgBlank | wdgAck | wdgAckblank =>
    cases hx
    simp [hout] at hset
  | payR | payG | paySkip | paySkipLast =>
    cases hx
    rw [State.set_mem_frameEndTail_out] at hset
    simp [hout] at hset
  | payB | payBLast =>
    cases hx
    rw [State.set_mem_frameEndTail_out, State.completePixel_out, State.bytePrologue_out, hout] at hset
    obtain ⟨hidx, hred, hgreen, rfl⟩ := by simpa using hset
    exact ⟨by simp, hidx, hred, hgreen⟩

/-- PAY.B and PAY.B.LAST are selected for the polled byte, at a position on the strip (R100, R102). -/
theorem State.Selects.of_pixelStore {s : State} {rx : Option Byte} {i : Instr} {b : Byte} (hsel : s.Selects rx i)
    (hi : i = .payB b ∨ i = .payBLast b) : s.writePos.toNat < s.cfg.stripLen ∧ rx = some b := by
  rcases hi with rfl | rfl
  · cases hsel with
    | payB _ hpos => exact ⟨hpos, rfl⟩
  · cases hsel with
    | payBLast _ hpos => exact ⟨hpos, rfl⟩

/-- Settles O35: a `Set` comes from PAY.B or PAY.B.LAST, which are selected on the strip alone, where the index is
exact (R68). -/
theorem setLiesOnTheStrip : Obligations.SetLiesOnTheStrip := by
  intro s t idx r g b h hset
  obtain ⟨hc, rfl | ⟨i, hsel, hx⟩⟩ := step_selects h
  · simp at hset
  · obtain ⟨-, hstrip, -, -⟩ := (runnable_iff s.cfg).1 hc
    obtain ⟨hi, rfl, rfl, rfl⟩ := exec_set s.prepared_out hx hset
    obtain ⟨hpos, hrx⟩ := hsel.of_pixelStore hi
    have hidx := State.pixelIndex_toNat s.prepared hstrip hpos
    exact ⟨hpos, hidx, hidx ▸ stripIndex_lt _ _ hpos, rfl, rfl, hrx⟩

end Sys2Proof.Machine
end

section
/-! PROOFS. The operation table and the decoder (spec/30_encoding.md R102 to R107): every word selects one row, and the
lists of bytes that decode to an instruction are its encodings. -/

namespace Sys2Proof

/-! ### The rows and the words -/

/-- The operand plays no part in the choice of the row (R103). -/
theorem row_decodeWord_congr (w b b' : Byte) : (decodeWord w b).row = (decodeWord w b').row := by
  simp only [decodeWord, decodeBits]
  repeat' split
  all_goals rfl

/-- The sixteen rows are pairwise disjoint and cover all 256 words (R102). -/
theorem filter_selects_eq_row (w b : Byte) : opcodeTable.filter (fun r => r.selects w) = [(decodeWord w b).row] := by
  rw [row_decodeWord_congr w b 0#8]
  revert w
  decide

/-- Settles O2: the table has sixteen rows, and each word was looked up in it. -/
theorem everyWordSelectsOneRow : Obligations.EveryWordSelectsOneRow := ⟨rfl, filter_selects_eq_row⟩

/-- A word is selected by the row of its operation (R104). -/
theorem row_decodeWord_selects (w b : Byte) : (decodeWord w b).row.selects w = true := by
  have hmem : (decodeWord w b).row ∈ opcodeTable.filter (fun r => r.selects w) := by
    rw [filter_selects_eq_row w b]
    exact List.mem_singleton_self _
  exact (List.mem_filter.1 hmem).2

/-- The decoded operation carries the input byte exactly if `V = 1` (R103). -/
theorem operand_decodeWord (w b : Byte) : (decodeWord w b).operand = if (bitsOfWord w).v then some b else none := by
  simp only [decodeWord, decodeBits]
  repeat' split
  all_goals simp_all [Instr.operand]

/-- The dispatch word in the encoding of `i` that takes the untested bits from `spare`; `encodeWith_eq` ties it to the
encoder. -/
def encodedWord (spare : Byte) (i : Instr) : Byte := i.row.pattern ||| (spare &&& ~~~i.row.mask)

theorem encodeWith_eq (spare : Byte) (i : Instr) : encodeWith spare i = encodedWord spare i :: i.operand.toList := rfl

/-- A word that a row selects is the encoding with the word's own untested bits. -/
theorem encodedWord_of_selects {w : Byte} {i : Instr} (h : i.row.selects w = true) : encodedWord w i = w := by
  have hmatch : w &&& i.row.mask = i.row.pattern := by simpa [OpRow.selects] using h
  rw [encodedWord, ← hmatch]
  ext k hk
  cases hw : w[k] <;> simp [hw]

/-- Whatever the untested bits, the encoding's word selects the operation (R102, R104). -/
theorem decodeWord_encodedWord (spare b : Byte) (i : Instr) (hb : ∀ c ∈ i.operand, c = b) :
    decodeWord (encodedWord spare i) b = i := by
  cases i <;> simp_all [decodeWord, bitsOfWord, encodedWord, Instr.row, decodeBits, Instr.operand]

/-- Every row tests `V`, and it is 1 in the rows of the operations with an operand (R103). -/
theorem v_encodedWord (spare : Byte) (i : Instr) : (bitsOfWord (encodedWord spare i)).v = i.operand.isSome := by
  cases i <;> simp [bitsOfWord, encodedWord, Instr.row, Instr.operand]

/-! ### Lists of bytes -/

/-- A word with `V = 0` is an instruction by itself. -/
theorem decode_of_v_false {w : Byte} (hv : (bitsOfWord w).v = false) (rest : List Byte) :
    decode (w :: rest) = .ok (decodeWord w 0#8, rest) := by
  simp only [decode, hv]

/-- A word with `V = 1` takes the byte behind it. -/
theorem decode_of_v_true {w : Byte} (hv : (bitsOfWord w).v = true) (b : Byte) (rest : List Byte) :
    decode (w :: b :: rest) = .ok (decodeWord w b, rest) := by
  simp only [decode, hv]

/-- Where that byte is missing, there is no instruction. -/
theorem decode_of_v_true_nil {w : Byte} (hv : (bitsOfWord w).v = true) : decode [w] = .error .noInputByte := by
  simp only [decode, hv]

/-- The word and the operand that were decoded encode the operation, with the word's own untested bits. -/
theorem encodeWith_decodeWord (w b : Byte) :
    encodeWith w (decodeWord w b) = w :: if (bitsOfWord w).v then [b] else [] := by
  rw [encodeWith_eq, encodedWord_of_selects (row_decodeWord_selects w b), operand_decodeWord]
  cases (bitsOfWord w).v <;> rfl

/-- A list that decodes is an encoding of what it decodes to. -/
theorem eq_encodeWith_of_decode {bs rest : List Byte} {i : Instr} (h : decode bs = .ok (i, rest)) :
    ∃ spare, bs = encodeWith spare i ++ rest := by
  cases bs with
  | nil => cases h
  | cons w bs =>
    refine ⟨w, ?_⟩
    cases hv : (bitsOfWord w).v with
    | false =>
      rw [decode_of_v_false hv] at h
      cases h
      rw [encodeWith_decodeWord, hv]
      rfl
    | true =>
      cases bs with
      | nil =>
        rw [decode_of_v_true_nil hv] at h
        cases h
      | cons b bs =>
        rw [decode_of_v_true hv] at h
        cases h
        rw [encodeWith_decodeWord, hv]
        rfl

/-- An encoding decodes to its instruction, and the bytes behind it are left over. -/
theorem decode_encodeWith (spare : Byte) (i : Instr) (rest : List Byte) :
    decode (encodeWith spare i ++ rest) = .ok (i, rest) := by
  have hv := v_encodedWord spare i
  rw [encodeWith_eq]
  cases hop : i.operand with
  | none =>
    rw [hop] at hv
    rw [Option.toList_none, List.singleton_append, decode_of_v_false hv,
      decodeWord_encodedWord spare _ i (by simp [hop])]
  | some b =>
    rw [hop] at hv
    rw [Option.toList_some, List.cons_append, List.singleton_append, decode_of_v_true hv,
      decodeWord_encodedWord spare _ i (by simp [hop])]

/-- Settles O3: the decoder inverts the encoder, and the encoder the decoder. -/
theorem decodesExactlyTheEncodings : Obligations.DecodesExactlyTheEncodings := by
  intro i bs rest
  refine ⟨eq_encodeWith_of_decode, ?_⟩
  rintro ⟨spare, rfl⟩
  exact decode_encodeWith spare i rest

/-- Settles O4: bit 7 of the first word says whether a second byte is needed. -/
theorem decodeRefusesOnlyMissingBytes : Obligations.DecodeRefusesOnlyMissingBytes := by
  intro bs
  cases bs with
  | nil => simp [decode]
  | cons w bs =>
    change _ ∧ (_ ↔ ∃ w' : Byte, _ ∧ (bitsOfWord w').v = true)
    cases hv : (bitsOfWord w).v with
    | false => simp_all [decode_of_v_false hv]
    | true =>
      cases bs with
      | nil => simp_all [decode_of_v_true_nil hv]
      | cons b bs => simp_all [decode_of_v_true hv]

/-- Settles O1: sixteen closed words, which the decoder evaluates. -/
theorem specWordsDecode : Obligations.SpecWordsDecode :=
  ⟨rfl, rfl, rfl, rfl, rfl, rfl, rfl, rfl, rfl, rfl, rfl, rfl, rfl, rfl, rfl, rfl⟩

end Sys2Proof
end

section
/-! PROOFS. The dispatch word (spec/30_encoding.md R100), the operation a step selects with it (R101 to R103), and what
every byte step does (R99). -/

namespace Sys2Proof

/-- Bits 5:4 of a word, read as a number (R100). -/
theorem phaseField_wordOfBits (d : DispatchBits) :
    ((wordOfBits d >>> 4) &&& 3#8).toNat = 2 * d.p1.toNat + d.p0.toNat := by
  obtain ⟨v, m, p1, p0, e, z, a, t⟩ := d
  revert v m p1 p0 e z a t
  decide

end Sys2Proof

namespace Sys2Proof.Machine

/-! ### The bits of the dispatch word -/

/-- Two bits hold the phase, so the field `P` of the word is the phase (R100). -/
theorem State.phaseField_dispatchWord (s : State) (rx : Option Byte) :
    ((s.dispatchWord rx >>> 4) &&& 3#8).toNat = s.phase := by
  have hlt := s.phase_lt
  rw [State.dispatchWord, phaseField_wordOfBits]
  simp only [State.dispatchBits]
  interval_cases s.phase <;> rfl

/-- Slot 3, which no reachable state has, has the phase of the bytes beyond the strip (R100, R40). -/
theorem State.phase_of_payload_of_slot (s : State) (h : s.mode = .payload) :
    s.phase = if s.writePos.toNat < s.cfg.stripLen ∧ s.chan ≠ 3#2 then s.chan.toNat else 3 := by
  rw [State.phase_of_payload s h]
  by_cases hchan : s.chan = 3#2 <;> simp [hchan]

/-- Bit `E` is set where a byte is compared and the comparison holds: the matcher's or the checksum's (R100). -/
theorem State.expectedByte_iff (s : State) (rx : Option Byte) :
    s.expectedByte rx = true ↔
      s.mode = .sync ∧ ∃ b, rx = some b ∧
        (s.progress.toNat < s.cfg.magic.length ∧ s.cfg.magic[s.progress.toNat]? = some b ∨
          s.cfg.magic.length + 2 ≤ s.progress.toNat ∧ b = s.hi ^^^ s.lo ^^^ 0x55#8) := by
  cases rx with
  | none => simp [State.expectedByte]
  | some b =>
    cases hmode : s.mode with
    | payload => simp [State.expectedByte, hmode]
    | sync =>
      by_cases hmagic : s.progress.toNat < s.cfg.magic.length
      · have hcheck : ¬ s.cfg.magic.length + 2 ≤ s.progress.toNat := by omega
        simp [State.expectedByte_of_matching s b hmode hmagic, hmagic, hcheck]
      · by_cases hcheck : s.cfg.magic.length + 2 ≤ s.progress.toNat
        · simp [State.expectedByte_of_checksum s b hmode hcheck, hmagic, hcheck]
        · have hphase : s.phase = 1 ∨ s.phase = 2 := by
            rw [State.phase_of_sync s hmode]
            split_ifs <;> omega
          rcases hphase with hphase | hphase <;> simp [State.expectedByte, hmode, hphase, hmagic, hcheck]

/-- Settles O6: the bits read back from the word are the predicates it was packed from. -/
theorem dispatchWordBits : Obligations.DispatchWordBits := by
  intro s rx
  have hbits : bitsOfWord (s.dispatchWord rx) = s.dispatchBits rx := bitsOfWord_wordOfBits _
  refine ⟨congrArg DispatchBits.v hbits, ?m, ?p, ?e, ?z, ?a, ?t⟩
  case m =>
    have hm : (s.dispatchWord rx).getLsbD 6 = s.mode.bit := congrArg DispatchBits.m hbits
    rw [hm, Mode.bit_iff]
  case p =>
    rw [State.phaseField_dispatchWord]
    cases hmode : s.mode with
    | sync => exact s.phase_of_sync hmode
    | payload => exact s.phase_of_payload_of_slot hmode
  case e =>
    have he : (s.dispatchWord rx).getLsbD 3 = s.expectedByte rx := congrArg DispatchBits.e hbits
    rw [he, State.expectedByte_iff]
  case z =>
    have hz : (s.dispatchWord rx).getLsbD 2 = s.lastPayloadByte := congrArg DispatchBits.z hbits
    rw [hz, State.lastPayloadByte_iff]
  case a =>
    have ha : (s.dispatchWord rx).getLsbD 1 = s.ackDue := congrArg DispatchBits.a hbits
    rw [ha, State.ackDue_iff]
  case t =>
    have ht : (s.dispatchWord rx).getLsbD 0 = s.blankDue := congrArg DispatchBits.t hbits
    rw [ht, State.blankDue_iff, State.windowExpired_iff, State.ackDue_iff, and_assoc]

/-! ### The operation of a step -/

/-- Settles O5: the words of a step decode to the operation it executes. -/
theorem stepRunsFetchedInstruction : Obligations.StepRunsFetchedInstruction := by
  intro s i rest hc hrun hdecode
  rw [State.decode_fetchBytes] at hdecode
  cases hdecode
  exact ⟨rfl, step_of_running s hc hrun, s.rx_eq, rfl, rfl⟩

/-- What the dispatch of a step says of the state on which its operation runs (R101, R102). -/
theorem State.selects_fetched (s : State) : s.prepared.Selects s.rx s.fetched := by
  rw [State.fetched_eq_selected]
  exact s.prepared.selects_selected s.rx

/-- The selected operation is one that the parameters allow: a match shows a byte of the magic sequence, a miss one that
differs, a blanking a timeout that has passed (R100, R104, R163). -/
theorem State.Selects.wf {s : State} {rx : Option Byte} {i : Instr} (h : s.Selects rx i) : i.wf s.cfg = true := by
  cases h with
  | syncHit _ _ hbyte => simpa [Instr.wf] using List.mem_of_getElem? hbyte
  | syncMiss _ hprog hbyte =>
    rw [List.getElem?_eq_getElem hprog] at hbyte
    simp only [Instr.wf, List.any_eq_true, bne_iff_ne]
    exact ⟨_, List.getElem_mem hprog, fun heq => hbyte (congrArg some heq)⟩
  | wdgBlank hack hblank =>
    obtain ⟨hexpired, hdue⟩ := s.blankDue_iff.1 hblank
    obtain ⟨htimeout, -⟩ := s.windowExpired_iff.1 hexpired
    simp [Instr.wf, hdue.resolve_left hack, htimeout]
  | wdgAckblank hack hblank =>
    obtain ⟨hexpired, -⟩ := s.blankDue_iff.1 hblank
    obtain ⟨htimeout, -⟩ := s.windowExpired_iff.1 hexpired
    simp [Instr.wf, htimeout]
  | hdrHi | hdrLo | hdrOk | hdrBad | payR | payG | payB | payBLast | paySkip | paySkipLast | wdgIdle | wdgAck => rfl

/-- Settles O40: the operation of a step is selected in the prepared state, which has the same parameters. -/
theorem selectedOperationIsWellFormed : Obligations.SelectedOperationIsWellFormed := fun s => s.selects_fetched.wf

/-- The selected operation carries the answer of the poll (R103). -/
theorem State.Selects.operand {s : State} {rx : Option Byte} {i : Instr} (h : s.Selects rx i) : i.operand = rx := by
  cases h <;> rfl

theorem State.operand_fetched (s : State) : s.fetched.operand = s.rx := s.selects_fetched.operand

/-! ### The byte step -/

/-- A byte step runs the operation that the polled byte selects (R101). -/
theorem State.ByteStep.step_eq {s : State} {b : Byte} (h : s.ByteStep b) :
    step s = exec (s.prepared.selected (some b)) s.prepared := by
  rw [step_of_running s h.runnable h.running, State.fetched_eq_selected, h.polled]

/-- The next state of a byte step is that of a selected operation. -/
theorem State.ByteStep.selects {s t : State} {b : Byte} (h : s.ByteStep b) (hstep : step s = .next t) :
    ∃ i, s.prepared.Selects (some b) i ∧ exec i s.prepared = .next t :=
  ⟨_, s.prepared.selects_selected (some b), h.step_eq ▸ hstep⟩

/-- The frame-end tail emits no `Ack` (R146). -/
theorem State.ack_mem_frameEndTail_out (s : State) : Command.ack ∈ s.frameEndTail.out ↔ Command.ack ∈ s.out := by
  rw [State.frameEndTail_out]
  split_ifs <;> simp

/-- What each of the twelve byte operations leaves in the stamps, and that it acknowledges nothing (R99, R97). -/
theorem exec_stamps {i : Instr} {s t : State} (hi : i.operand.isSome = true) (hx : exec i s = .next t) :
    t.tNow = s.tNow ∧ t.tLastByte = s.tNow ∧ t.tLastAck = (if s.cfg.ackResetOnByte then s.tNow else s.tLastAck) ∧
      t.rxTake = s.rxTake ∧ (Command.ack ∈ t.out ↔ Command.ack ∈ s.out) ∧ t.link.sent = s.link.sent := by
  cases i with
  | syncHit | syncMiss | hdrHi | hdrLo | hdrOk | hdrBad =>
    cases hx
    simp [Link.apply]
  | payR | payG | payB | payBLast | paySkip | paySkipLast =>
    cases hx
    simp [State.ack_mem_frameEndTail_out]
  | wdgIdle | wdgBlank | wdgAck | wdgAckblank => simp [Instr.operand] at hi

/-- Settles O36: a byte step runs an operation with an operand, on a state that holds the time of the step. -/
theorem byteStepStamps : Obligations.ByteStepStamps := by
  intro s t b hb hstep
  obtain ⟨i, hsel, hx⟩ := hb.selects hstep
  obtain ⟨hnow, hbyte, hack, htake, hout, hsent⟩ := exec_stamps (by rw [hsel.operand]; rfl) hx
  refine ⟨hnow, hbyte.trans hnow.symm, ?_, ?_, ?_, hsent⟩
  · rw [hack, hnow]
    rfl
  · rw [htake, State.prepared_rxTake, hb.polled]
    rfl
  · simp [hout]

end Sys2Proof.Machine
end

section
/-! PROOFS. The wire format (spec/30_encoding.md R90 to R95): the exact count and length of an accepted header, the
lengths of a frame's parts, the checksum byte. -/

namespace Sys2Proof.Machine

/-- Settles O23: neither the count field nor the payload length wraps. -/
theorem acceptedCountIsExact : Obligations.AcceptedCountIsExact := by
  intro s t b hx
  cases hx
  have hcount := (countField s.hi s.lo).isLt
  have hlen := payloadLength_toNat (countField s.hi s.lo)
  refine ⟨countField_toNat s.hi s.lo, hlen, ?_, ?_⟩ <;> simp only [hlen] <;> omega

/-- The magic sequence and three fields (R91). -/
@[simp] theorem length_headerBytes (cfg : Config) (c : BitVec 16) :
    (headerBytes cfg c).length = cfg.magic.length + 3 := by
  simp [headerBytes]

/-- Three bytes a pixel (R76). -/
@[simp] theorem length_payloadBytes (ps : List Colour) : (payloadBytes ps).length = 3 * ps.length := by
  simp [payloadBytes, pixelBytes, Nat.mul_comm]

/-- Settles O46: the lengths of the two parts, and their sum. -/
theorem frameLengths : Obligations.FrameLengths := by
  intro cfg c ps hps
  have hpayload : (payloadBytes ps).length = 3 * (c.toNat + 1) := by rw [length_payloadBytes, hps]
  exact ⟨length_headerBytes cfg c, hpayload, by rw [frameBytes, List.length_append, length_headerBytes, hpayload]⟩

/-- Settles O41: the rows of the checksum byte are told apart by the comparison alone (R95, R125, R126). -/
theorem checksumAcceptsOneByte : Obligations.ChecksumAcceptsOneByte := by
  intro s b hb hmode hprog
  have hfetch : s.fetched = if b = s.hi ^^^ s.lo ^^^ 0x55#8 then .hdrOk b else .hdrBad b := by
    rw [State.fetched_eq_selected, hb.polled, State.selected_of_sync (s := s.prepared) hmode, if_neg (by simp [hprog]),
      if_neg (by simp [hprog]), if_neg (by simp [hprog])]
    rfl
  rw [step_of_running s hb.runnable hb.running, hfetch]
  split
  case isTrue hgood => exact ⟨by simp [hgood], by simp [hgood], _, rfl, rfl, by simp [hgood], by simp [hgood]⟩
  case isFalse hbad => exact ⟨by simp [hbad], by simp [hbad], _, rfl, rfl, by simp [hbad, hmode], by simp [hbad, hmode]⟩

end Sys2Proof.Machine
end

section
/-! PROOFS. Runs that consume given bytes (spec/30_encoding.md R97, R108): the inputs of a run follow one another, a run
keeps what its byte steps and its idle steps keep, and noise is skipped (R96). -/

namespace Sys2Proof.Machine

/-! ### The inputs of a run -/

/-- No operation touches the inputs to come (R15). -/
theorem exec_inputs {i : Instr} {s t : State} (hx : exec i s = .next t) :
    t.script = s.script ∧ t.slotNo = s.slotNo := by
  cases i with
  | syncHit | syncMiss | hdrHi | hdrLo | hdrOk | hdrBad => cases hx; simp
  | payR | payG | payB | payBLast | paySkip | paySkipLast => cases hx; simp
  | wdgIdle | wdgBlank | wdgAck | wdgAckblank => cases hx; simp

/-- Every edge takes one input (R15). -/
theorem step_inputAt {s t : State} (h : step s = .next t) (k : Nat) : t.inputAt k = s.inputAt (k + 1) := by
  obtain ⟨-, ⟨-, rfl⟩ | ⟨-, hx⟩⟩ := step_cases h
  · exact State.inputAt_of_moved rfl rfl k
  · obtain ⟨hscript, hslot⟩ := exec_inputs hx
    exact State.inputAt_of_moved hscript hslot k

theorem State.Running.head {s : State} {n : Nat} (h : s.Running (n + 1)) : s.input.rst = false :=
  h 0 (Nat.zero_lt_succ n)

theorem State.Running.tail {s t : State} {n : Nat} (h : s.Running (n + 1)) (hstep : step s = .next t) :
    t.Running n := by
  intro k hk
  rw [step_inputAt hstep]
  exact h (k + 1) (Nat.succ_lt_succ hk)

/-- The trace begins with the operation and the commands of the first step. -/
theorem State.trace_succ {s t : State} (hrun : s.input.rst = false) (h : step s = .next t) (n : Nat) :
    s.trace (n + 1) = (s.fetched, t.out) :: t.trace n := by
  simp only [State.trace, h, hrun, Bool.false_eq_true, if_false]

/-- The bytes a run consumes: the byte polled in its first step, if there is one, and those of the rest (R97). -/
theorem State.received_succ {s t : State} (hrun : s.input.rst = false) (h : step s = .next t) (n : Nat) :
    s.received (n + 1) = s.rx.toList ++ t.received n := by
  rw [State.received, State.trace_succ hrun h, List.filterMap_cons, State.operand_fetched]
  cases s.rx <;> rfl

/-- The first step of an undisturbed run does not blank, and the rest is undisturbed. -/
theorem State.Undisturbed.uncons {s t : State} {n : Nat} (h : s.Undisturbed (n + 1)) (hstep : step s = .next t) :
    (s.fetched ≠ .wdgBlank ∧ s.fetched ≠ .wdgAckblank) ∧ t.Undisturbed n := by
  obtain ⟨hrun, hquiet⟩ := h
  rw [State.trace_succ hrun.head hstep] at hquiet
  exact ⟨hquiet _ List.mem_cons_self, hrun.tail hstep, fun e he => hquiet e (List.mem_cons_of_mem _ he)⟩

/-- No step of a run writes the parameters (R34). -/
theorem run_cfg {n : Nat} {s t : State} (hrun : Host.Core.run Sys2Proof.core n s = .next t) : t.cfg = s.cfg :=
  run_induction (P := fun u => u.cfg = s.cfg) (fun _ _ h hstep => (step_cfg hstep).trans h) rfl hrun

/-! ### The queue -/

/-- The byte at the head of the queue is the one polled (R71). -/
theorem byteStep_of_queue {s : State} {b : Byte} {bs : List Byte} {n : Nat} (hc : s.cfg.runnable = true)
    (hq : s.link.q = b :: bs) (hrun : s.Running (n + 1)) : s.ByteStep b :=
  ⟨hc, hrun.head, by rw [State.rx_eq, hq]; rfl⟩

/-- With more payload to come the tail leaves the transport alone (R146). -/
theorem State.frameEndTail_link_of_more {s : State} (h : 1 < s.remaining.toNat) : s.frameEndTail.link = s.link := by
  rw [State.frameEndTail_of_more s h]

/-- Only the end of a frame can discard queued bytes (R73, R146). -/
theorem State.Selects.queue_exec {s t : State} {rx : Option Byte} {i : Instr} (hsel : s.Selects rx i)
    (hmore : s.mode = .payload → 1 < s.remaining.toNat) (hx : exec i s = .next t) : t.link.q = s.link.q := by
  cases hsel with
  | syncHit | syncMiss | hdrHi | hdrLo | hdrOk | hdrBad => cases hx; simp [Link.apply]
  | wdgIdle | wdgBlank | wdgAck | wdgAckblank => cases hx; simp
  | payR hmode | payG hmode | payB hmode | payBLast hmode | paySkip hmode | paySkipLast hmode =>
    cases hx
    exact congrArg Link.q (State.frameEndTail_link_of_more (hmore hmode))

/-! ### What a run keeps -/

/-- A relation between the bytes to come and the state that runs keep: a byte step consumes the first of the bytes, an
idle step that does not blank none. -/
structure Consumes (P : List Byte → State → Prop) : Prop where
  byteStep : ∀ {b bs s t}, P (b :: bs) s → s.ByteStep b → step s = .next t → P bs t
  idleStep : ∀ {bs s t}, P bs s → s.IdleStep → s.fetched ≠ .wdgBlank → s.fetched ≠ .wdgAckblank →
    step s = .next t → P bs t

/-- An undisturbed run that receives exactly the bytes to come ends with none to come. -/
theorem Consumes.run_of_received {P : List Byte → State → Prop} (hP : Consumes P) {n : Nat} {bs : List Byte} {s : State}
    (hc : s.cfg.runnable = true) (hquiet : s.Undisturbed n) (hrec : s.received n = bs) (h : P bs s) :
    ∃ t, Host.Core.run Sys2Proof.core n s = .next t ∧ P [] t := by
  induction n generalizing bs s with
  | zero =>
    cases hrec
    exact ⟨s, rfl, h⟩
  | succ n ih =>
    obtain ⟨t, ht⟩ := step_answers_of_runnable s hc
    have hrun := hquiet.1.head
    obtain ⟨⟨hblank, hackblank⟩, hquiet⟩ := hquiet.uncons ht
    rw [State.received_succ hrun ht] at hrec
    subst hrec
    have hnext : P (t.received n) t := by
      cases hrx : s.rx with
      | none =>
        rw [hrx] at h
        exact hP.idleStep h ⟨hc, hrun, hrx⟩ hblank hackblank ht
      | some b =>
        rw [hrx] at h
        exact hP.byteStep h ⟨hc, hrun, hrx⟩ ht
    rw [run_succ ht]
    exact ih (step_cfg ht ▸ hc) hquiet rfl hnext

/-- Bytes at the head of the queue are consumed without a gap, if no frame ends before the last of them: the end of a
frame may discard the bytes behind it (R146). -/
theorem Consumes.run_of_queue {P : List Byte → State → Prop} (hP : Consumes P)
    (hmore : ∀ {b bs s}, P (b :: bs) s → bs ≠ [] → s.mode = .payload → 1 < s.remaining.toNat) {bs rest : List Byte}
    {s : State} (hc : s.cfg.runnable = true) (hq : s.link.q = bs ++ rest) (hrun : s.Running bs.length) (h : P bs s) :
    ∃ t, Host.Core.run Sys2Proof.core bs.length s = .next t ∧ P [] t := by
  induction bs generalizing s rest with
  | nil => exact ⟨s, rfl, h⟩
  | cons b bs ih =>
    have hb := byteStep_of_queue hc hq hrun
    obtain ⟨t, ht⟩ := step_answers_of_runnable s hc
    obtain ⟨rest', hq'⟩ : ∃ rest', t.link.q = bs ++ rest' := by
      by_cases hlast : bs = []
      · exact ⟨t.link.q, by rw [hlast, List.nil_append]⟩
      · obtain ⟨i, hsel, hx⟩ := hb.selects ht
        have hkept := hsel.queue_exec (fun hpay => hmore (s := s) h hlast hpay) hx
        exact ⟨rest ++ s.input.arrivals, by simp [hkept, hq]⟩
    rw [List.length_cons, run_succ ht]
    exact ih (step_cfg ht ▸ hc) hq' (hrun.tail ht) (hP.byteStep h hb ht)

/-! ### Noise -/

/-- In scan mode SYNC.MISS drops every byte but `MAGIC[0]`, and the block goes on scanning (R96, R122). -/
theorem step_of_noise {s : State} {b : Byte} (hb : s.ByteStep b) (hmode : s.mode = .sync) (hprog : s.progress = 0#8)
    (hnoise : s.cfg.magic[0]? ≠ some b) :
    ∃ t, step s = .next t ∧ t.mode = .sync ∧ t.progress = 0#8 ∧ t.cfg = s.cfg ∧ t.sink = s.sink ∧ t.out = [] ∧
      t.link.q = (s.link.q ++ s.input.arrivals).tail := by
  obtain ⟨-, -, hmagic, -⟩ := (runnable_iff s.cfg).1 hb.runnable
  have hmiss : s.prepared.selected (some b) = .syncMiss b := by
    rw [State.selected_of_sync (s := s.prepared) hmode]
    simpa [hprog, Nat.lt_of_lt_of_le Nat.zero_lt_one hmagic] using hnoise
  rw [hb.step_eq, hmiss]
  exact ⟨_, rfl, hmode, rfl, rfl, rfl, rfl, rfl⟩

/-- Settles O43: by induction on the noise, each byte of which is dropped where it is polled. -/
theorem noiseIsSkipped : Obligations.NoiseIsSkipped := by
  intro noise
  induction noise with
  | nil =>
    intro rest s _ hmode hprog hq _ _
    exact ⟨s, rfl, hmode, hprog, rfl, ⟨[], by simpa using hq⟩, rfl⟩
  | cons b noise ih =>
    intro rest s hc hmode hprog hq hnoise hrun
    obtain ⟨hb, hnoise⟩ := List.forall_mem_cons.1 hnoise
    obtain ⟨t, ht, htmode, htprog, htcfg, htsink, htout, htq⟩ :=
      step_of_noise (byteStep_of_queue hc hq hrun) hmode hprog hb
    rw [← htcfg] at hc hnoise
    have hq' : t.link.q = noise ++ (rest ++ s.input.arrivals) := by simp [htq, hq]
    obtain ⟨u, hu, humode, huprog, husink, ⟨more, hmore⟩, hcommands⟩ :=
      ih _ t hc htmode htprog hq' hnoise (hrun.tail ht)
    rw [List.length_cons, run_succ ht, State.commands_succ ht, htout, hcommands]
    exact ⟨u, hu, humode, huprog, husink.trans htsink, ⟨_, hmore.trans (List.append_assoc ..)⟩, rfl⟩

end Sys2Proof.Machine
end

section
/-! PROOFS. A well-formed frame (spec/30_encoding.md R90): where the block stands in it is kept from byte to byte and by
idle steps, and after its last byte the strip shows it (spec/20_memory.md R67, spec/41_payload.md R148, R149). -/

namespace Sys2Proof.Machine

/-! ### The strip -/

/-- The array shows `ps` from position 0 on, in the configured direction, and is dark beyond it (R68, R228). -/
def Pixels.Shows (cfg : Config) (k : Pixels) (ps : List Colour) : Prop :=
  ∀ p, p < cfg.stripLen → k.pixel cfg.stripLen (stripIndex cfg p) = some ((ps[p]?).getD (0#8, 0#8, 0#8))

/-- A cleared array shows no pixel (R63). -/
theorem Pixels.shows_clear (cfg : Config) (k : Pixels) : (k.clear cfg.stripLen).Shows cfg [] :=
  fun p hp => Pixels.pixel_clear _ _ _ (stripIndex_lt cfg p hp)

/-- Distinct positions of the strip have distinct indices (R68). -/
theorem stripIndex_inj {cfg : Config} {p q : Nat} (hp : p < cfg.stripLen) (hq : q < cfg.stripLen) :
    stripIndex cfg p = stripIndex cfg q ↔ p = q := by
  unfold stripIndex
  split <;> omega

/-- Writing the pixel of position `w` over an array that shows the pixels before it extends what it shows (R64, R68). -/
theorem Pixels.Shows.writePixel {cfg : Config} {k : Pixels} {ps : List Colour} {w : Nat} {c : Colour}
    (hw : w < cfg.stripLen) (hc : ps[w]? = some c) (h : k.Shows cfg (ps.take w)) :
    (k.writePixel (stripIndex cfg w) c.1 c.2.1 c.2.2).Shows cfg (ps.take (w + 1)) := by
  intro p hp
  rw [Pixels.pixel_writePixel _ _ _ _ _ _ _ (stripIndex_lt cfg w hw), List.getElem?_take]
  by_cases hpw : p = w
  · subst hpw
    simp [hc]
  · have hlt : p < w + 1 ↔ p < w := by omega
    simp only [stripIndex_inj hp hw, hpw, hlt, if_false]
    rw [h p hp, List.getElem?_take]

/-! ### Where the block stands in a frame -/

/-- In the header of a frame of the pixels `ps` with the count `c`, with `bs` to come. -/
structure State.AwaitsHeader (c : BitVec 16) (ps : List Colour) (bs : List Byte) (s : State) : Prop where
  announced : ps.length = c.toNat + 1
  mode : s.mode = .sync
  progress : s.progress.toNat ≤ s.cfg.magic.length + 2
  hi : s.cfg.magic.length + 1 ≤ s.progress.toNat → s.hi = BitVec.ofNat 8 (c.toNat / 256)
  lo : s.cfg.magic.length + 2 ≤ s.progress.toNat → s.lo = BitVec.ofNat 8 (c.toNat % 256)
  toCome : bs = (frameBytes s.cfg c ps).drop s.progress.toNat

/-- The stored bytes of the pixel in progress (R27, R28). -/
def State.pending (s : State) : List Byte := [s.acc.red, s.acc.green].take s.chan.toNat

theorem State.length_pending {s : State} (h : s.chan ≠ 3#2) : s.pending.length = s.chan.toNat := by
  have hle : s.chan.toNat ≤ 2 := by bv_omega
  simp [State.pending, hle]

/-- In the payload of a frame of the pixels `ps`, with `bs` to come: the buffer holds the pixels before the position,
and on the strip the pending bytes and those to come are the pixels from there on. It says nothing of `remaining`, so it
also holds between an operation's own writes and the frame-end tail (R146). -/
structure State.Draws (ps : List Colour) (bs : List Byte) (s : State) : Prop where
  mode : s.mode = .payload
  chanSlot : s.writePos.toNat < s.cfg.stripLen → s.chan ≠ 3#2
  toCome : s.writePos.toNat < s.cfg.stripLen → s.pending ++ bs = payloadBytes (ps.drop s.writePos.toNat)
  drawn : s.sink.buf.Shows s.cfg (ps.take s.writePos.toNat)

/-- Where the block stands in a frame of the pixels `ps` with the count `c`, with `bs` to come. -/
inductive State.Receives (c : BitVec 16) (ps : List Colour) : List Byte → State → Prop where
  /-- Before the end of the header. -/
  | header {bs : List Byte} {s : State} (h : State.AwaitsHeader c ps bs s) : State.Receives c ps bs s
  /-- Before the end of the payload. -/
  | payload {bs : List Byte} {s : State} (h : State.Draws ps bs s) (hmore : bs ≠ [])
      (hcount : s.remaining.toNat = bs.length) : State.Receives c ps bs s
  /-- After the last byte. -/
  | shown {s : State} (hmode : s.mode = .sync) (hprog : s.progress = 0#8) (h : s.sink.shown.Shows s.cfg ps) :
      State.Receives c ps [] s

/-- Scan mode awaits the header of any frame. -/
theorem State.receives_of_scan {c : BitVec 16} {ps : List Colour} {s : State} (hps : ps.length = c.toNat + 1)
    (hmode : s.mode = .sync) (hprog : s.progress = 0#8) : State.Receives c ps (frameBytes s.cfg c ps) s := by
  refine .header ⟨hps, hmode, ?_, ?_, ?_, ?_⟩ <;> simp [hprog]

/-- A frame of which no byte is to come is shown: a header always has its payload to come. -/
theorem State.Receives.shows {c : BitVec 16} {ps : List Colour} {s : State} (h : State.Receives c ps [] s) :
    s.mode = .sync ∧ s.progress = 0#8 ∧ s.sink.shown.Shows s.cfg ps := by
  cases h with
  | header h =>
    have hdone := List.drop_eq_nil_iff.1 h.toCome.symm
    obtain ⟨-, -, hlen⟩ := frameLengths s.cfg c ps h.announced
    have hprog := h.progress
    omega
  | payload _ hmore => exact absurd rfl hmore
  | shown hmode hprog h => exact ⟨hmode, hprog, h⟩

/-- No frame ends before its last byte (R140). -/
theorem State.Receives.more {c : BitVec 16} {ps : List Colour} {b : Byte} {bs : List Byte} {s : State}
    (h : State.Receives c ps (b :: bs) s) (hmore : bs ≠ []) (hmode : s.mode = .payload) : 1 < s.remaining.toNat := by
  cases h with
  | header h => simp [h.mode] at hmode
  | payload _ _ hcount =>
    have hpos := List.length_pos_iff.2 hmore
    rw [hcount, List.length_cons]
    omega

/-- The poll and the sampling of the time keep the place in the frame (R97, R98). -/
theorem State.Receives.prepared {c : BitVec 16} {ps : List Colour} {bs : List Byte} {s : State}
    (h : State.Receives c ps bs s) : State.Receives c ps bs s.prepared := by
  cases h with
  | header h => exact .header { h with }
  | payload h hmore hcount => exact .payload { h with } hmore hcount
  | shown hmode hprog h => exact .shown hmode hprog h

/-- So does an acknowledgment (R162, R149). -/
theorem State.Receives.acknowledge {c : BitVec 16} {ps : List Colour} {bs : List Byte} {s : State}
    (h : State.Receives c ps bs s) : State.Receives c ps bs s.acknowledge := by
  cases h with
  | header h => exact .header { h with }
  | payload h hmore hcount => exact .payload { h with } hmore hcount
  | shown hmode hprog h => exact .shown hmode hprog h

/-- The first byte to come stands at the place reached, and the others behind it. -/
theorem getElem?_of_cons_eq_drop {α : Type} {l bs : List α} {b : α} {k : Nat} (h : b :: bs = l.drop k) :
    l[k]? = some b ∧ bs = l.drop (k + 1) := by
  rw [← List.head?_drop, ← List.tail_drop, ← h]
  exact ⟨rfl, rfl⟩

/-! ### The header -/

/-- The count field of `HEADER c` is `c` (R109, R93). -/
theorem countField_headerFields (c : BitVec 16) :
    countField (BitVec.ofNat 8 (c.toNat / 256)) (BitVec.ofNat 8 (c.toNat % 256)) = c := by
  apply BitVec.eq_of_toNat_eq
  have hlt := c.isLt
  rw [countField_toNat, BitVec.toNat_ofNat, BitVec.toNat_ofNat]
  omega

/-- The fields of a frame, in order (R90, R91). -/
theorem frameBytes_eq (cfg : Config) (c : BitVec 16) (ps : List Colour) :
    frameBytes cfg c ps =
      cfg.magic ++ BitVec.ofNat 8 (c.toNat / 256) :: BitVec.ofNat 8 (c.toNat % 256) ::
        headerChecksum (BitVec.ofNat 8 (c.toNat / 256)) (BitVec.ofNat 8 (c.toNat % 256)) :: payloadBytes ps := by
  simp [frameBytes, headerBytes]

/-- A header byte that is consumed, and captured if it is a byte of the count, moves the place by one (R121 to R124). -/
theorem State.AwaitsHeader.advance {c : BitVec 16} {ps : List Colour} {b : Byte} {bs : List Byte} {s t : State}
    (h : State.AwaitsHeader c ps (b :: bs) s) (hcfg : t.cfg = s.cfg) (hmode : t.mode = s.mode)
    (hle : s.progress.toNat ≤ s.cfg.magic.length + 1) (hprog : t.progress.toNat = s.progress.toNat + 1)
    (hhi : s.cfg.magic.length ≤ s.progress.toNat → t.hi = BitVec.ofNat 8 (c.toNat / 256))
    (hlo : s.cfg.magic.length + 1 ≤ s.progress.toNat → t.lo = BitVec.ofNat 8 (c.toNat % 256)) :
    State.AwaitsHeader c ps bs t where
  announced := h.announced
  mode := hmode.trans h.mode
  progress := by rw [hcfg, hprog]; omega
  hi hge := hhi (by rw [hcfg, hprog] at hge; omega)
  lo hge := hlo (by rw [hcfg, hprog] at hge; omega)
  toCome := by
    rw [hcfg, hprog]
    exact (getElem?_of_cons_eq_drop h.toCome).2

/-- An accepted header leaves the block before the payload, over a cleared buffer (R125). -/
theorem receives_execHdrOk {c : BitVec 16} {ps : List Colour} {b : Byte} {s t : State}
    (hannounced : ps.length = c.toNat + 1) (hcount : countField s.hi s.lo = c) (hx : exec (.hdrOk b) s = .next t) :
    State.Receives c ps (payloadBytes ps) t := by
  cases hx
  have hlen : (payloadBytes ps).length = 3 * (c.toNat + 1) := by rw [length_payloadBytes, hannounced]
  refine .payload ⟨rfl, fun _ => by simp, fun _ => rfl, Pixels.shows_clear _ _⟩ ?_ ?_
  · rw [← List.length_pos_iff, hlen]
    omega
  · rw [hlen, ← payloadLength_toNat, ← hcount]

/-- In the header the polled byte is the one that the matcher, a capture or the validator waits for (R121 to R125). -/
theorem State.Selects.receives_of_header {c : BitVec 16} {ps : List Colour} {b : Byte} {bs : List Byte} {s t : State}
    {i : Instr} (hsel : s.Selects (some b) i) (hc : s.cfg.runnable = true) (h : State.AwaitsHeader c ps (b :: bs) s)
    (hx : exec i s = .next t) : State.Receives c ps bs t := by
  obtain ⟨hbyte, hrest⟩ := getElem?_of_cons_eq_drop h.toCome
  rw [frameBytes_eq] at hbyte hrest
  obtain ⟨-, -, -, hmagic⟩ := (runnable_iff s.cfg).1 hc
  have hend := h.progress
  cases hsel with
  | syncHit _ hlt =>
    cases hx
    have hnext : (s.progress + 1#8).toNat = s.progress.toNat + 1 := by bv_omega
    exact .header (h.advance rfl rfl (by omega) hnext (fun hge => by omega) (fun hge => by omega))
  | syncMiss _ hlt hmiss =>
    rw [List.getElem?_append_left hlt] at hbyte
    exact absurd hbyte hmiss
  | hdrHi _ heq =>
    cases hx
    have hb : b = BitVec.ofNat 8 (c.toNat / 256) := by simpa [heq] using hbyte.symm
    have hnext := toNat_progress_of_runnable hc (k := 1) (by omega)
    exact .header (h.advance rfl rfl (by omega) (by simp [hnext, heq]) (fun _ => hb) (fun hge => by omega))
  | hdrLo _ heq =>
    cases hx
    have hb : b = BitVec.ofNat 8 (c.toNat % 256) := by simpa [heq] using hbyte.symm
    have hnext := toNat_progress_of_runnable hc (k := 2) (by omega)
    exact .header (h.advance rfl rfl heq.le (by simp [hnext, heq]) (fun _ => h.hi heq.ge) (fun _ => hb))
  | hdrOk _ hge =>
    have heq : s.progress.toNat = s.cfg.magic.length + 2 := by omega
    have hcount : countField s.hi s.lo = c := by rw [h.hi (by omega), h.lo hge, countField_headerFields]
    have hbs : bs = payloadBytes ps := by rwa [heq, Nat.add_assoc, List.drop_length_add_append] at hrest
    exact hbs ▸ receives_execHdrOk h.announced hcount hx
  | hdrBad _ hge hbad =>
    have heq : s.progress.toNat = s.cfg.magic.length + 2 := by omega
    rw [h.hi (by omega), h.lo hge] at hbad
    exact absurd (by simpa [heq] using hbyte.symm) hbad
  | payR hpay | payG hpay | payB hpay | payBLast hpay | paySkip hpay | paySkipLast hpay => simp [h.mode] at hpay

/-! ### The payload -/

/-- Three bytes at the front of a payload are its first pixel (R76). -/
theorem eq_cons_of_payloadBytes_eq {ps : List Colour} {r g b : Byte} {bs : List Byte}
    (h : r :: g :: b :: bs = payloadBytes ps) : ∃ qs, ps = (r, g, b) :: qs ∧ bs = payloadBytes qs := by
  cases ps with
  | nil => cases h
  | cons p qs =>
    cases h
    exact ⟨qs, rfl, rfl⟩

/-- With no byte to come the buffer holds every pixel of the frame that has a position on the strip. -/
theorem State.Draws.shows {ps : List Colour} {s : State} (h : State.Draws ps [] s) : s.sink.buf.Shows s.cfg ps := by
  by_cases hw : s.writePos.toNat < s.cfg.stripLen
  · have hlen : s.chan.toNat = 3 * (ps.length - s.writePos.toNat) := by
      rw [← State.length_pending (h.chanSlot hw), ← List.length_drop, ← length_payloadBytes, ← h.toCome hw,
        List.append_nil]
    have hchan := h.chanSlot hw
    have hall : ps.length ≤ s.writePos.toNat := by bv_omega
    rw [← List.take_of_length_le hall]
    exact h.drawn
  · intro p hp
    rw [h.drawn p hp, List.getElem?_take, if_pos (by omega)]

/-- The tail counts the byte, or latches the buffer after the last one (R146). -/
theorem State.Draws.receives_frameEndTail {c : BitVec 16} {ps : List Colour} {bs : List Byte} {s : State}
    (h : State.Draws ps bs s) (hcount : s.remaining.toNat = bs.length + 1) :
    State.Receives c ps bs s.frameEndTail := by
  by_cases hlast : bs = []
  · subst hlast
    rw [State.frameEndTail_of_last s hcount.le]
    exact .shown rfl rfl h.shows
  · have hpos := List.length_pos_iff.2 hlast
    rw [State.frameEndTail_of_more s (by omega)]
    refine .payload { h with } hlast ?_
    bv_omega

/-- A stored red or green byte is pending (R141, R142). -/
theorem State.Draws.store {ps : List Colour} {b : Byte} {bs : List Byte} {s : State} (h : State.Draws ps (b :: bs) s)
    (acc : Acc) {chan : BitVec 2} (hchan : chan ≠ 3#2)
    (hpending : [acc.red, acc.green].take chan.toNat = s.pending ++ [b]) :
    State.Draws ps bs { s.bytePrologue with acc := acc, chan := chan } where
  mode := h.mode
  chanSlot _ := hchan
  toCome hw := by
    rw [State.pending, hpending, List.append_assoc]
    exact h.toCome hw
  drawn := h.drawn

/-- A blue byte completes the pixel at the position, and the buffer holds it from then on (R143). -/
theorem State.Draws.completePixel {ps : List Colour} {b : Byte} {bs : List Byte} {s : State}
    (h : State.Draws ps (b :: bs) s) (hc : s.cfg.runnable = true) (hpos : s.writePos.toNat < s.cfg.stripLen)
    (hchan : s.chan = 2#2) : State.Draws ps bs (s.bytePrologue.completePixel b) := by
  obtain ⟨-, hstrip, -, -⟩ := (runnable_iff s.cfg).1 hc
  have hcome := h.toCome hpos
  rw [State.pending, hchan] at hcome
  obtain ⟨qs, hqs, hbs⟩ := eq_cons_of_payloadBytes_eq hcome
  obtain ⟨hpixel, hrest⟩ := getElem?_of_cons_eq_drop hqs.symm
  have hnext : (s.writePos + 1#17).toNat = s.writePos.toNat + 1 := by bv_omega
  have hidx := State.pixelIndex_toNat s.bytePrologue hstrip hpos
  rw [State.completePixel_on_strip s.bytePrologue b hstrip hpos]
  refine ⟨h.mode, fun _ => by simp, fun _ => ?_, ?_⟩
  · simp [State.pending, hnext, ← hrest, hbs]
  · simp only [hidx, State.bytePrologue_writePos, hnext]
    exact h.drawn.writePixel hpos hpixel

/-- Beyond the strip a byte is discarded (R145). -/
theorem State.Draws.skip {ps : List Colour} {b : Byte} {bs : List Byte} {s : State} (h : State.Draws ps (b :: bs) s)
    (hpos : s.writePos.toNat < s.cfg.stripLen → s.chan = 3#2) : State.Draws ps bs s.bytePrologue :=
  { h with toCome := fun hw => absurd (hpos hw) (h.chanSlot hw) }

/-- In the payload the polled byte goes where the position and the slot say (R141 to R147). -/
theorem State.Selects.receives_of_payload {c : BitVec 16} {ps : List Colour} {b : Byte} {bs : List Byte} {s t : State}
    {i : Instr} (hsel : s.Selects (some b) i) (hc : s.cfg.runnable = true) (h : State.Draws ps (b :: bs) s)
    (hcount : s.remaining.toNat = (b :: bs).length) (hx : exec i s = .next t) : State.Receives c ps bs t := by
  cases hsel with
  | syncHit hsync | syncMiss hsync | hdrHi hsync | hdrLo hsync | hdrOk hsync | hdrBad hsync => simp [h.mode] at hsync
  | payR _ _ hchan | payG _ _ hchan =>
    cases hx
    exact (h.store _ (by decide) (by simp [State.pending, hchan])).receives_frameEndTail hcount
  | payB _ hpos hchan | payBLast _ hpos hchan =>
    cases hx
    exact (h.completePixel hc hpos hchan).receives_frameEndTail hcount
  | paySkip _ hpos | paySkipLast _ hpos =>
    cases hx
    exact (h.skip hpos).receives_frameEndTail hcount

/-! ### The run -/

/-- An idle step that does not blank does nothing or acknowledges (R161, R162). -/
theorem step_of_quiet {s t : State} (hidle : s.IdleStep) (hblank : s.fetched ≠ .wdgBlank)
    (hackblank : s.fetched ≠ .wdgAckblank) (hstep : step s = .next t) :
    t = s.prepared ∨ t = s.prepared.acknowledge := by
  rw [step_of_running s hidle.runnable hidle.running] at hstep
  have hsel := s.selects_fetched
  rw [hidle.polled] at hsel
  generalize s.fetched = i at *
  cases hsel with
  | wdgIdle => cases hstep; exact .inl rfl
  | wdgAck => cases hstep; exact .inr rfl
  | wdgBlank => exact absurd rfl hblank
  | wdgAckblank => exact absurd rfl hackblank

/-- A run keeps the place in the frame: its bytes are consumed in order, and idle steps change nothing of it (R149). -/
theorem consumes_receives (c : BitVec 16) (ps : List Colour) : Consumes (State.Receives c ps) where
  byteStep h hb hstep := by
    obtain ⟨i, hsel, hx⟩ := hb.selects hstep
    cases h.prepared with
    | header h => exact hsel.receives_of_header hb.runnable h hx
    | payload h _ hcount => exact hsel.receives_of_payload hb.runnable h hcount hx
  idleStep h hidle hblank hackblank hstep := by
    rcases step_of_quiet hidle hblank hackblank hstep with rfl | rfl
    · exact h.prepared
    · exact h.prepared.acknowledge

/-- Settles O51: the run receives the frame byte by byte, and a frame with no byte to come is shown. -/
theorem wellFormedFrameIsShownAmongIdleSteps : Obligations.WellFormedFrameIsShownAmongIdleSteps := by
  intro s c ps n hc hmode hprog hps hquiet hrec
  obtain ⟨t, ht, hend⟩ :=
    (consumes_receives c ps).run_of_received hc hquiet hrec (State.receives_of_scan hps hmode hprog)
  obtain ⟨htmode, htprog, hshown⟩ := hend.shows
  rw [run_cfg ht] at hshown
  exact ⟨t, ht, htmode, htprog, hshown⟩

/-- Settles O49: the queue gives the frame without a gap, since no frame ends, and flushes, before its last byte. -/
theorem wellFormedFrameIsShown : Obligations.WellFormedFrameIsShown := by
  intro s c ps rest hc hmode hprog hps hq hrun
  obtain ⟨t, ht, hend⟩ := (consumes_receives c ps).run_of_queue State.Receives.more hc hq hrun
    (State.receives_of_scan hps hmode hprog)
  obtain ⟨htmode, htprog, hshown⟩ := hend.shows
  rw [run_cfg ht] at hshown
  exact ⟨t, ht, htmode, htprog, hshown⟩

end Sys2Proof.Machine
end

section
/-! PROOFS. The operations of SYNC mode (spec/40_sync_header.md): what each writes, and the step that runs it. -/

namespace Sys2Proof.Machine

/-! ### The operations -/

/-- Settles O13: the prologue and the write of `progress`. -/
theorem matcherOperations : Obligations.MatcherOperations := fun _ _ => ⟨rfl, rfl⟩

/-- Settles O14: the prologue, the captured byte and the write of `progress`. -/
theorem headerCaptureOperations : Obligations.HeaderCaptureOperations := fun _ _ => ⟨rfl, rfl⟩

/-- The payload length of a header is computed from its two bytes without a wrap (R93, R94). -/
theorem payloadLength_countField (hi lo : Byte) :
    payloadLength (countField hi lo) = BitVec.ofNat 18 (3 * (256 * hi.toNat + lo.toNat + 1)) := by
  rw [payloadLength, countField_toNat, bytesPerPixel]

/-- Settles O15: the `Clear` reaches the sink alone, and the length written is the one of the exact count. -/
theorem checksumOperations : Obligations.ChecksumOperations := by
  intro s b
  rw [← payloadLength_countField]
  exact ⟨rfl, rfl⟩

/-! ### The step -/

/-- A byte step in SYNC mode runs the operation that `progress` and the byte select, on the state after the poll
(R101, R121 to R126). -/
theorem State.ByteStep.fetched_of_sync {s : State} {b : Byte} (h : s.ByteStep b) (hmode : s.mode = .sync) :
    s.fetched =
      if s.progress.toNat < s.cfg.magic.length then
        if s.cfg.magic[s.progress.toNat]? = some b then .syncHit b else .syncMiss b
      else if s.progress.toNat = s.cfg.magic.length then .hdrHi b
      else if s.progress.toNat = s.cfg.magic.length + 1 then .hdrLo b
      else if b = s.hi ^^^ s.lo ^^^ 0x55#8 then .hdrOk b else .hdrBad b := by
  rw [State.fetched_eq_selected, h.polled]
  exact State.selected_of_sync (s := s.prepared) hmode b

/-- Settles O7: the selection names the operation, and what that writes is known in every state. -/
theorem byteStepInSyncMode : Obligations.ByteStepInSyncMode := by
  intro s b hb hmode L p
  have hfetched := hb.fetched_of_sync hmode
  obtain ⟨hhit, hmiss⟩ := matcherOperations s.prepared b
  obtain ⟨hhi, hlo⟩ := headerCaptureOperations s.prepared b
  obtain ⟨hok, hbad⟩ := checksumOperations s.prepared b
  have hnext : BitVec.ofNat 8 (s.progress.toNat + 1) = s.progress + 1#8 := by simp [BitVec.ofNat_add]
  rw [step_of_running s hb.runnable hb.running, hnext]
  simp only [L]
  split_ifs at hfetched ⊢
  · exact ⟨hfetched, hfetched ▸ hhit⟩
  · exact ⟨hfetched, hfetched ▸ hmiss⟩
  · exact ⟨hfetched, hfetched ▸ hhi⟩
  · exact ⟨hfetched, hfetched ▸ hlo⟩
  · exact ⟨hfetched, hfetched ▸ hok⟩
  · exact ⟨hfetched, hfetched ▸ hbad⟩

/-- The check of R6 is that no value stands in the sequence twice. -/
theorem distinctBytes_iff_nodup (bs : List Byte) : distinctBytes bs = true ↔ bs.Nodup := by
  induction bs with
  | nil => simp [distinctBytes]
  | cons b bs ih => simp [distinctBytes, ih]

/-- Settles O42: the magic byte waited for is not the first, so the byte equal to the first does not match it. -/
theorem brokenMatchIsNotRescanned : Obligations.BrokenMatchIsNotRescanned := by
  intro s b hwf hb hmode hpos hlt hfirst
  have hnodup : s.cfg.magic.Nodup := by
    rw [← distinctBytes_iff_nodup]
    exact (Bool.and_eq_true_iff.1 hwf).2
  have hmiss : s.cfg.magic[s.progress.toNat]? ≠ some b := fun hbyte =>
    hpos.ne' ((List.getElem?_inj hlt hnodup).1 (hbyte.trans hfirst.symm))
  have hstep := byteStepInSyncMode s b hb hmode
  simp only [if_pos hlt, if_neg hmiss] at hstep
  obtain ⟨hfetched, hnext⟩ := hstep
  exact ⟨hfetched, _, hnext, hmode, rfl, rfl⟩

end Sys2Proof.Machine
end

section
/-! PROOFS. The trace of a run (spec/30_encoding.md R97, R101): how it grows step by step, the commands it gives, and
the byte steps of a run that consumes given bytes, with idle steps among them or without a gap. -/

namespace Sys2Proof.Machine

/-! ### The trace and the commands -/

/-- The commands of a run are those of its trace: a reset edge issues none (R210). -/
theorem State.commands_eq_flatMap_trace (s : State) (n : Nat) : s.commands n = (s.trace n).flatMap Prod.snd := by
  induction n generalizing s with
  | zero => rfl
  | succ n ih =>
    cases hs : step s with
    | next t =>
      rw [State.commands_succ hs, ih]
      obtain ⟨-, ⟨hrst, rfl⟩ | ⟨hrun, -⟩⟩ := step_cases hs
      · simp [State.trace, hs, hrst]
      · rw [State.trace_succ hrun hs, List.flatMap_cons]
    | fault r => cases r
    | refused r => simp [State.commands, State.trace, hs]

/-- Without a reset every edge is a step of the trace. -/
theorem State.length_trace {s : State} {n : Nat} (hc : s.cfg.runnable = true) (hrun : s.Running n) :
    (s.trace n).length = n := by
  induction n generalizing s with
  | zero => rfl
  | succ n ih =>
    obtain ⟨t, ht⟩ := step_answers_of_runnable s hc
    rw [State.trace_succ hrun.head ht, List.length_cons, ih (step_cfg ht ▸ hc) (hrun.tail ht)]

/-- A shorter run is the beginning of a longer one. -/
theorem State.trace_isPrefix (s : State) {k n : Nat} (hkn : k ≤ n) : s.trace k <+: s.trace n := by
  induction k generalizing s n with
  | zero => exact List.nil_prefix
  | succ k ih =>
    obtain ⟨n, rfl⟩ : ∃ m, n = m + 1 := ⟨n - 1, by omega⟩
    cases hs : step s with
    | next t =>
      have htail := ih t (Nat.le_of_succ_le_succ hkn)
      cases hrst : s.input.rst with
      | true => simpa [State.trace, hs, hrst] using htail
      | false => simpa [State.trace, hs, hrst, List.prefix_cons_inj] using htail
    | fault r => cases r
    | refused r => simp [State.trace, hs]

/-- A run that consumes a byte in every edge has no idle step. -/
theorem State.operand_of_mem_trace {s : State} {n : Nat} (hc : s.cfg.runnable = true) (hrun : s.Running n)
    (hrec : (s.received n).length = n) : ∀ e ∈ s.trace n, e.1.operand.isSome = true := by
  rw [← List.countP_eq_length, State.length_trace hc hrun]
  rwa [State.received, List.length_filterMap_eq_countP] at hrec

/-- A run without an idle step does not blank. -/
theorem State.undisturbed_of_bytes {s : State} {n : Nat} (hrun : s.Running n)
    (hbytes : ∀ e ∈ s.trace n, e.1.operand.isSome = true) : s.Undisturbed n := by
  refine ⟨hrun, fun e he => ?_⟩
  have hbyte := hbytes e he
  exact ⟨fun hidle => by simp [hidle, Instr.operand] at hbyte, fun hidle => by simp [hidle, Instr.operand] at hbyte⟩

/-! ### The byte steps and the idle steps -/

/-- A byte step comes first among the byte steps of its run (R97). -/
theorem State.ByteStep.byteTrace_succ {s t : State} {b : Byte} (h : s.ByteStep b) (hstep : step s = .next t) (n : Nat) :
    s.byteTrace (n + 1) = (s.fetched, t.out) :: t.byteTrace n := by
  rw [State.byteTrace, State.trace_succ h.running hstep, List.filter_cons_of_pos]
  · rfl
  · simp [State.operand_fetched, h.polled]

/-- An idle step is not among them. -/
theorem State.IdleStep.byteTrace_succ {s t : State} (h : s.IdleStep) (hstep : step s = .next t) (n : Nat) :
    s.byteTrace (n + 1) = t.byteTrace n := by
  rw [State.byteTrace, State.trace_succ h.running hstep, List.filter_cons_of_neg]
  · rfl
  · simp [State.operand_fetched, h.polled]

/-- An idle step that does not blank emits nothing or an acknowledgment (R161, R162). -/
theorem State.Undisturbed.idleStepsOnlyAcknowledge {s : State} {n : Nat} (hc : s.cfg.runnable = true)
    (hquiet : s.Undisturbed n) : s.IdleStepsOnlyAcknowledge n := by
  induction n generalizing s with
  | zero => simp [State.IdleStepsOnlyAcknowledge, State.trace]
  | succ n ih =>
    obtain ⟨t, ht⟩ := step_answers_of_runnable s hc
    have hrun := hquiet.1.head
    obtain ⟨⟨hblank, hackblank⟩, hquiet⟩ := hquiet.uncons ht
    rw [State.IdleStepsOnlyAcknowledge, State.trace_succ hrun ht, List.forall_mem_cons]
    refine ⟨fun hidle => ?_, ih (step_cfg ht ▸ hc) hquiet⟩
    rw [State.operand_fetched] at hidle
    rcases step_of_quiet ⟨hc, hrun, hidle⟩ hblank hackblank ht with rfl | rfl
    · exact .inl rfl
    · exact .inr rfl

/-! ### Runs that consume given bytes -/

/-- If each byte step performs the first of the steps `E` foresees for the bytes to come, an undisturbed run performs
them all. -/
theorem Consumes.byteTrace_of_received {P : List Byte → State → Prop} (hP : Consumes P)
    {E : List Byte → List (Instr × List Command)} (hnil : E [] = [])
    (hcons : ∀ {b bs s t}, P (b :: bs) s → s.ByteStep b → step s = .next t → E (b :: bs) = (s.fetched, t.out) :: E bs)
    {n : Nat} {bs : List Byte} {s : State} (hc : s.cfg.runnable = true) (hquiet : s.Undisturbed n)
    (hrec : s.received n = bs) (h : P bs s) : s.byteTrace n = E bs := by
  induction n generalizing bs s with
  | zero =>
    cases hrec
    exact hnil.symm
  | succ n ih =>
    obtain ⟨t, ht⟩ := step_answers_of_runnable s hc
    have hct := step_cfg ht ▸ hc
    have hrun := hquiet.1.head
    obtain ⟨⟨hblank, hackblank⟩, hquiet⟩ := hquiet.uncons ht
    rw [State.received_succ hrun ht] at hrec
    subst hrec
    cases hrx : s.rx with
    | none =>
      rw [hrx] at h
      have hidle : s.IdleStep := ⟨hc, hrun, hrx⟩
      rw [hidle.byteTrace_succ ht]
      exact ih hct hquiet rfl (hP.idleStep h hidle hblank hackblank ht)
    | some b =>
      rw [hrx] at h
      have hb : s.ByteStep b := ⟨hc, hrun, hrx⟩
      have hnext := hP.byteStep h hb ht
      rw [hb.byteTrace_succ ht, ih hct hquiet rfl hnext]
      exact (hcons h hb ht).symm

/-- Bytes at the head of the queue are received without a gap, and the bytes behind them stay queued, if no frame ends
in between. -/
theorem Consumes.received_of_queue {P : List Byte → State → Prop} (hP : Consumes P)
    (hmore : ∀ {b bs s}, P (b :: bs) s → s.mode = .payload → 1 < s.remaining.toNat) {bs rest : List Byte} {s : State}
    (hc : s.cfg.runnable = true) (hq : s.link.q = bs ++ rest) (hrun : s.Running bs.length) (h : P bs s) :
    s.received bs.length = bs ∧
      ∃ t more, Host.Core.run Sys2Proof.core bs.length s = .next t ∧ t.link.q = rest ++ more := by
  induction bs generalizing s rest with
  | nil => exact ⟨rfl, s, [], rfl, by simpa using hq⟩
  | cons b bs ih =>
    have hb := byteStep_of_queue hc hq hrun
    obtain ⟨t, ht⟩ := step_answers_of_runnable s hc
    obtain ⟨i, hsel, hx⟩ := hb.selects ht
    have hq' : t.link.q = bs ++ (rest ++ s.input.arrivals) := by
      have hkept := hsel.queue_exec (hmore (s := s) h) hx
      simp [hkept, hq]
    obtain ⟨hrec, u, more, hu, hend⟩ := ih (step_cfg ht ▸ hc) hq' (hrun.tail ht) (hP.byteStep h hb ht)
    rw [List.length_cons, run_succ ht, State.received_succ hb.running ht, hb.polled, hrec]
    exact ⟨rfl, u, _, hu, hend.trans (List.append_assoc ..)⟩

end Sys2Proof.Machine
end

section
/-! PROOFS. A header with any fields (spec/40_sync_header.md R129): where the block stands in it is kept from byte to
byte and by idle steps, each byte runs the operation of its place, and the last one accepts or rejects. -/

namespace Sys2Proof.Machine

/-! ### Where the block stands in a header -/

/-- A header with the fields `h`, `l` and the checksum byte `c`, right or wrong (R91). -/
def fieldsHeader (cfg : Config) (h l c : Byte) : List Byte := cfg.magic ++ [h, l, c]

/-- The steps of its bytes: `L` SYNC.HIT, HDR.HI, HDR.LO, and HDR.OK with `Clear` or HDR.BAD (R129). -/
def headerSteps (cfg : Config) (h l c : Byte) : List (Instr × List Command) :=
  cfg.magic.map (fun b => (Instr.syncHit b, [])) ++
    [(.hdrHi h, []), (.hdrLo l, []), if c = h ^^^ l ^^^ 0x55#8 then (.hdrOk c, [.clear]) else (.hdrBad c, [])]

/-- The steps of the bytes `bs` at its end. -/
def headerStepsToCome (cfg : Config) (h l c : Byte) (bs : List Byte) : List (Instr × List Command) :=
  (headerSteps cfg h l c).drop ((fieldsHeader cfg h l c).length - bs.length)

@[simp] theorem length_fieldsHeader (cfg : Config) (h l c : Byte) :
    (fieldsHeader cfg h l c).length = cfg.magic.length + 3 := by
  simp [fieldsHeader]

@[simp] theorem length_headerSteps (cfg : Config) (h l c : Byte) :
    (headerSteps cfg h l c).length = cfg.magic.length + 3 := by
  simp [headerSteps]

/-- In a header begun in the state `s₀`, with `bs` to come: the fields before the place reached are captured, and
`count` and the sink are as they were. -/
structure State.InHeader (h l c : Byte) (s₀ : State) (bs : List Byte) (s : State) : Prop where
  cfg : s.cfg = s₀.cfg
  mode : s.mode = .sync
  progress : s.progress.toNat ≤ s.cfg.magic.length + 2
  hi : s.cfg.magic.length + 1 ≤ s.progress.toNat → s.hi = h
  lo : s.cfg.magic.length + 2 ≤ s.progress.toNat → s.lo = l
  count : s.count = s₀.count
  sink : s.sink = s₀.sink
  toCome : bs = (fieldsHeader s.cfg h l c).drop s.progress.toNat

/-- What a header begun in the state `s₀` leaves: the payload opened if its checksum byte `c` is right, scan mode with
`count` and the sink as they were if not (R125, R126, R129). -/
structure State.HeaderResult (h l c : Byte) (s₀ s : State) : Prop where
  progress : s.progress = 0#8
  hi : s.hi = h
  lo : s.lo = l
  outcome :
    if c = h ^^^ l ^^^ 0x55#8 then
      s.mode = .payload ∧ s.count.toNat = 256 * h.toNat + l.toNat ∧
      s.remaining.toNat = 3 * (256 * h.toNat + l.toNat + 1) ∧ s.writePos = 0#17 ∧ s.chan = 0#2
    else s.mode = .sync ∧ s.count = s₀.count ∧ s.sink = s₀.sink

/-- Where the block stands with respect to a header begun in the state `s₀`, with `bs` of it to come. -/
inductive State.TakesHeader (h l c : Byte) (s₀ : State) : List Byte → State → Prop where
  /-- Before its last byte. -/
  | before {bs : List Byte} {s : State} (hin : State.InHeader h l c s₀ bs s) : State.TakesHeader h l c s₀ bs s
  /-- After it. -/
  | after {s : State} (hres : State.HeaderResult h l c s₀ s) : State.TakesHeader h l c s₀ [] s

/-- Scan mode is the beginning of any header. -/
theorem State.takesHeader_of_scan {s : State} (h l c : Byte) (hmode : s.mode = .sync) (hprog : s.progress = 0#8) :
    State.TakesHeader h l c s (fieldsHeader s.cfg h l c) s := by
  refine .before ⟨rfl, hmode, ?_, ?_, ?_, rfl, rfl, ?_⟩ <;> simp [hprog]

/-- The place in the header is told by the number of bytes to come. -/
theorem State.InHeader.length_toCome {h l c : Byte} {bs : List Byte} {s₀ s : State}
    (hin : State.InHeader h l c s₀ bs s) : s.progress.toNat + bs.length = s.cfg.magic.length + 3 := by
  have hprog := hin.progress
  rw [hin.toCome, List.length_drop, length_fieldsHeader]
  omega

/-- With no byte to come the header has its result. -/
theorem State.TakesHeader.result {h l c : Byte} {s₀ s : State} (ht : State.TakesHeader h l c s₀ [] s) :
    State.HeaderResult h l c s₀ s := by
  cases ht with
  | before hin =>
    have hplace := hin.length_toCome
    have hprog := hin.progress
    simp only [List.length_nil] at hplace
    omega
  | after hres => exact hres

/-- With a byte to come the block is in the header. -/
theorem State.TakesHeader.inHeader {h l c b : Byte} {bs : List Byte} {s₀ s : State}
    (ht : State.TakesHeader h l c s₀ (b :: bs) s) : State.InHeader h l c s₀ (b :: bs) s := by
  cases ht with
  | before hin => exact hin

/-- The poll and the sampling of the time keep the place in the header (R97, R98). -/
theorem State.TakesHeader.prepared {h l c : Byte} {bs : List Byte} {s₀ s : State}
    (ht : State.TakesHeader h l c s₀ bs s) : State.TakesHeader h l c s₀ bs s.prepared := by
  cases ht with
  | before hin => exact .before { hin with }
  | after hres => exact .after { hres with }

/-- So does an acknowledgment (R162). -/
theorem State.TakesHeader.acknowledge {h l c : Byte} {bs : List Byte} {s₀ s : State}
    (ht : State.TakesHeader h l c s₀ bs s) : State.TakesHeader h l c s₀ bs s.acknowledge := by
  cases ht with
  | before hin => exact .before { hin with }
  | after hres => exact .after { hres with }

/-! ### The byte steps -/

/-- A byte before the checksum moves the place by one, and a field is captured (R121, R123, R124). -/
theorem State.InHeader.advance {h l c b : Byte} {bs : List Byte} {s₀ s : State}
    (hin : State.InHeader h l c s₀ (b :: bs) s) {p : Progress} {hi lo : Byte}
    (hle : s.progress.toNat ≤ s.cfg.magic.length + 1) (hp : p.toNat = s.progress.toNat + 1)
    (hhi : s.cfg.magic.length ≤ s.progress.toNat → hi = h)
    (hlo : s.cfg.magic.length + 1 ≤ s.progress.toNat → lo = l) :
    State.InHeader h l c s₀ bs { s.bytePrologue with progress := p, hi := hi, lo := lo } :=
  { hin with
    progress := by simp only [State.bytePrologue_cfg, hp]; omega
    hi := fun hge => hhi (by simp only [State.bytePrologue_cfg, hp] at hge; omega)
    lo := fun hge => hlo (by simp only [State.bytePrologue_cfg, hp] at hge; omega)
    toCome := by simpa only [State.bytePrologue_cfg, hp] using (getElem?_of_cons_eq_drop hin.toCome).2 }

/-- The checksum byte is the last of the header. -/
theorem State.InHeader.last {h l c b : Byte} {bs : List Byte} {s₀ s : State}
    (hin : State.InHeader h l c s₀ (b :: bs) s) (heq : s.progress.toNat = s.cfg.magic.length + 2) :
    b = c ∧ bs = [] ∧ s.hi = h ∧ s.lo = l := by
  have hcome := hin.toCome
  simp only [heq, fieldsHeader, List.drop_length_add_append, List.drop_succ_cons, List.drop_zero, List.cons.injEq]
    at hcome
  obtain ⟨hb, hbs⟩ := hcome
  exact ⟨hb, hbs, hin.hi (by omega), hin.lo (by omega)⟩

/-- HDR.OK opens the payload of the count that the captured fields give (R125). -/
theorem headerResult_execHdrOk {b : Byte} {s₀ s t : State} (hgood : b = headerChecksum s.hi s.lo)
    (hx : exec (.hdrOk b) s = .next t) : State.HeaderResult s.hi s.lo b s₀ t := by
  obtain ⟨hcount, hremaining, -⟩ := acceptedCountIsExact s t b hx
  rw [hcount] at hremaining
  cases hx
  exact ⟨rfl, rfl, rfl, (if_pos hgood).mpr ⟨rfl, hcount, hremaining, rfl, rfl⟩⟩

/-- In a header the polled byte runs the step of its place, and the place moves on (R121 to R126). -/
theorem State.Selects.takesHeader {h l c b : Byte} {bs : List Byte} {s₀ s t : State} {i : Instr}
    (hsel : s.Selects (some b) i) (hc : s.cfg.runnable = true) (hout : s.out = [])
    (hin : State.InHeader h l c s₀ (b :: bs) s) (hx : exec i s = .next t) :
    (headerSteps s.cfg h l c)[s.progress.toNat]? = some (i, t.out) ∧ State.TakesHeader h l c s₀ bs t := by
  obtain ⟨hbyte, -⟩ := getElem?_of_cons_eq_drop hin.toCome
  obtain ⟨-, -, -, hmagic⟩ := (runnable_iff s.cfg).1 hc
  have hend := hin.progress
  rw [fieldsHeader] at hbyte
  cases hsel with
  | syncHit _ hlt hmatch =>
    cases hx
    have hnext : (s.progress + 1#8).toNat = s.progress.toNat + 1 := by bv_omega
    refine ⟨?_, .before (hin.advance (by omega) hnext (fun hge => by omega) (fun hge => by omega))⟩
    rw [headerSteps, List.getElem?_append_left (by simpa using hlt), List.getElem?_map, hmatch]
    simp [hout]
  | syncMiss _ hlt hmiss =>
    rw [List.getElem?_append_left hlt] at hbyte
    exact absurd hbyte hmiss
  | hdrHi _ heq =>
    cases hx
    have hb : b = h := by simpa [heq] using hbyte.symm
    have hnext := toNat_progress_of_runnable hc (k := 1) (by omega)
    exact ⟨by simp [headerSteps, heq, hb, hout],
      .before (hin.advance (by omega) (by rw [hnext, heq]) (fun _ => hb) (fun hge => by omega))⟩
  | hdrLo _ heq =>
    cases hx
    have hb : b = l := by simpa [heq] using hbyte.symm
    have hnext := toNat_progress_of_runnable hc (k := 2) (by omega)
    exact ⟨by simp [headerSteps, heq, hb, hout],
      .before (hin.advance heq.le (by rw [hnext, heq]) (fun _ => hin.hi heq.ge) (fun _ => hb))⟩
  | hdrOk _ hge hgood =>
    have heq : s.progress.toNat = s.cfg.magic.length + 2 := by omega
    obtain ⟨rfl, rfl, rfl, rfl⟩ := hin.last heq
    refine ⟨?_, .after (headerResult_execHdrOk hgood hx)⟩
    cases hx
    simp [headerSteps, heq, hgood, headerChecksum, checksumConst, hout]
  | hdrBad _ hge hbad =>
    cases hx
    have heq : s.progress.toNat = s.cfg.magic.length + 2 := by omega
    obtain ⟨rfl, rfl, rfl, rfl⟩ := hin.last heq
    exact ⟨by simpa [headerSteps, heq, headerChecksum, checksumConst, hout] using hbad,
      .after ⟨rfl, rfl, rfl, (if_neg hbad).mpr ⟨hin.mode, hin.count, hin.sink⟩⟩⟩
  | payR hpay | payG hpay | payB hpay | payBLast hpay | paySkip hpay | paySkipLast hpay => simp [hin.mode] at hpay

/-- The same of a byte step: it performs the next of the steps to come. -/
theorem State.ByteStep.takesHeader {h l c b : Byte} {bs : List Byte} {s₀ s t : State} (hb : s.ByteStep b)
    (ht : State.TakesHeader h l c s₀ (b :: bs) s) (hstep : step s = .next t) :
    headerStepsToCome s₀.cfg h l c (b :: bs) = (s.fetched, t.out) :: headerStepsToCome s₀.cfg h l c bs ∧
      State.TakesHeader h l c s₀ bs t := by
  have hsel := s.selects_fetched
  rw [hb.polled] at hsel
  rw [step_of_running s hb.runnable hb.running] at hstep
  have hin := ht.inHeader
  obtain ⟨hperformed, hnext⟩ := hsel.takesHeader hb.runnable s.prepared_out ht.prepared.inHeader hstep
  refine ⟨?_, hnext⟩
  have hplace := hin.length_toCome
  rw [List.length_cons] at hplace
  rw [State.prepared_cfg, State.prepared_progress] at hperformed
  have hhere : s.cfg.magic.length + 3 - (bs.length + 1) = s.progress.toNat := by omega
  have hthere : s.cfg.magic.length + 3 - bs.length = s.progress.toNat + 1 := by omega
  rw [← hin.cfg, headerStepsToCome, headerStepsToCome, length_fieldsHeader, List.length_cons, hhere, hthere,
    List.drop_eq_getElem?_toList_append, hperformed]
  rfl

/-! ### The run -/

/-- A run keeps the place in the header: its bytes are consumed in order, and idle steps change nothing of it (R129). -/
theorem consumes_takesHeader (h l c : Byte) (s₀ : State) : Consumes (State.TakesHeader h l c s₀) where
  byteStep ht hb hstep := (hb.takesHeader ht hstep).2
  idleStep ht hidle hblank hackblank hstep := by
    rcases step_of_quiet hidle hblank hackblank hstep with rfl | rfl
    · exact ht.prepared
    · exact ht.prepared.acknowledge

/-- Settles O45: the run takes the header byte by byte, each byte performs its step, and the last one has the result. -/
theorem headerAcceptanceAmongIdleSteps : Obligations.HeaderAcceptanceAmongIdleSteps := by
  intro s h l c n hc hmode hprog hquiet hrec
  have hstart := State.takesHeader_of_scan h l c hmode hprog
  have hconsumes := consumes_takesHeader h l c s
  have hsteps : s.byteTrace n = headerStepsToCome s.cfg h l c (fieldsHeader s.cfg h l c) :=
    hconsumes.byteTrace_of_received (by simp [headerStepsToCome]) (fun ht hb hstep => (hb.takesHeader ht hstep).1) hc
      hquiet hrec hstart
  rw [headerStepsToCome, Nat.sub_self, List.drop_zero] at hsteps
  obtain ⟨t, ht, hend⟩ := hconsumes.run_of_received hc hquiet hrec hstart
  obtain ⟨htprog, hhi, hlo, houtcome⟩ := hend.result
  exact ⟨hquiet.idleStepsOnlyAcknowledge hc, hsteps, t, ht, htprog, hhi, hlo, run_cfg ht, houtcome⟩

/-- The one command of a header is the `Clear` of its last step, if the checksum byte is right (R129). -/
theorem commands_headerSteps (cfg : Config) (h l c : Byte) :
    (headerSteps cfg h l c).flatMap Prod.snd = if c = h ^^^ l ^^^ 0x55#8 then [.clear] else [] := by
  rw [headerSteps, List.flatMap_append, List.flatMap_map]
  split <;> simp

/-- Before its last step it has none. -/
theorem commands_headerSteps_before (cfg : Config) (h l c : Byte) :
    ((headerSteps cfg h l c).take (cfg.magic.length + 2)).flatMap Prod.snd = [] := by
  rw [headerSteps, List.take_append, List.flatMap_append]
  simp [List.flatMap_map, List.take_of_length_le]

/-- Settles O44: without a gap every edge of the header is a byte step, so its trace is the one of
`headerAcceptanceAmongIdleSteps`. -/
theorem headerAcceptance : Obligations.HeaderAcceptance := by
  intro s h l c rest hc hmode hprog hq hrun
  obtain ⟨hrec, t, more, ht, hrest⟩ : s.received (s.cfg.magic.length + 3) = fieldsHeader s.cfg h l c ∧
      ∃ t more, Host.Core.run Sys2Proof.core (s.cfg.magic.length + 3) s = .next t ∧ t.link.q = rest ++ more := by
    rw [← length_fieldsHeader s.cfg h l c] at hrun ⊢
    exact (consumes_takesHeader h l c s).received_of_queue (fun ht hpay => by simp [ht.inHeader.mode] at hpay) hc hq
      hrun (State.takesHeader_of_scan h l c hmode hprog)
  have hbytes := State.operand_of_mem_trace hc hrun (by rw [hrec, length_fieldsHeader])
  obtain ⟨-, hsteps, u, hu, huprog, hhi, hlo, hcfg, houtcome⟩ :=
    headerAcceptanceAmongIdleSteps s h l c _ hc hmode hprog (State.undisturbed_of_bytes hrun hbytes) hrec
  cases ht.symm.trans hu
  have htrace : s.trace (s.cfg.magic.length + 3) = headerSteps s.cfg h l c := by
    rw [headerSteps, ← hsteps, State.byteTrace, List.filter_eq_self.2 hbytes]
  have hbefore : s.commands (s.cfg.magic.length + 2) = [] := by
    have htake := List.prefix_iff_eq_take.1 (s.trace_isPrefix (Nat.le_succ (s.cfg.magic.length + 2)))
    rw [State.length_trace hc (fun k hk => hrun k (by omega)), htrace] at htake
    rw [State.commands_eq_flatMap_trace, htake, commands_headerSteps_before]
  have hcommands := commands_headerSteps s.cfg h l c
  rw [← htrace, ← State.commands_eq_flatMap_trace] at hcommands
  refine ⟨t, ht, huprog, hhi, hlo, hcfg, ⟨more, hrest⟩, hbefore, ?_⟩
  rw [hcommands]
  split_ifs at houtcome ⊢
  · obtain ⟨hpay, hcount, hremaining, hpos, hchan⟩ := houtcome
    exact ⟨hpay, hcount, hremaining, hpos, hchan, rfl⟩
  · obtain ⟨hsync, hcount, hsink⟩ := houtcome
    exact ⟨hsync, hcount, hsink, rfl⟩

end Sys2Proof.Machine
end

section
/-! PROOFS. The operations of PAYLOAD mode (spec/41_payload.md): what each writes, the step that runs it, and the end of
a frame (R140, R146). -/

namespace Sys2Proof.Machine

/-! ### The operations -/

/-- Settles O17: the byte goes to its slot, and the tail counts down. -/
theorem colourStoreOperations : Obligations.ColourStoreOperations := by
  intro s b hmore
  have htail (acc : Acc) (chan : BitVec 2) :=
    State.frameEndTail_of_more { s.bytePrologue with acc := acc, chan := chan } hmore
  exact ⟨congrArg Host.Outcome.next (htail _ _), congrArg Host.Outcome.next (htail _ _)⟩

/-- Settles O18: the tail fires after the colour is stored. -/
theorem colourStoreOnLastByte : Obligations.ColourStoreOnLastByte := by
  intro s b hlast
  have htail (acc : Acc) (chan : BitVec 2) :=
    State.frameEndTail_of_last { s.bytePrologue with acc := acc, chan := chan } hlast
  refine ⟨_, _, congrArg Host.Outcome.next (htail _ _), congrArg Host.Outcome.next (htail _ _), rfl, rfl, rfl, rfl, ?_⟩
  rintro v hv
  rcases List.mem_pair.1 hv with rfl | rfl <;> exact ⟨rfl, rfl, rfl, rfl, rfl, rfl, rfl, rfl, rfl⟩

/-- A completed pixel goes to the index of its position, and the index fits the port (R143, R68, R69). -/
theorem State.completePixel_at_stripIndex {s : State} (b : Byte) (hstrip : s.cfg.stripLen ≤ 65536)
    (hpos : s.writePos.toNat < s.cfg.stripLen) :
    s.completePixel b =
      { s with
        acc := { s.acc with blue := b }
        writePos := s.writePos + 1#17
        chan := 0#2
        sink := { s.sink with
          buf := s.sink.buf.writePixel (stripIndex s.cfg s.writePos.toNat) s.acc.red s.acc.green b }
        out := s.out ++ [.set s.pixelIndex s.acc.red s.acc.green b] } := by
  rw [State.completePixel_on_strip s b hstrip hpos, State.pixelIndex_toNat s hstrip hpos]

/-- Settles O19: the pixel is written at its index, and the tail counts down. -/
theorem pixelOperation : Obligations.PixelOperation := by
  intro s b hmore hstrip hpos idx
  have hpixel := State.completePixel_at_stripIndex (s := s.bytePrologue) b hstrip hpos
  have htail := State.frameEndTail_of_more (s.bytePrologue.completePixel b) hmore
  rw [hpixel] at htail
  exact congrArg Host.Outcome.next ((congrArg State.frameEndTail hpixel).trans htail)

/-- Settles O20: the pixel is written at its index, and the tail latches the buffer with it. -/
theorem lastPixelOperation : Obligations.LastPixelOperation := by
  intro s b hlast hstrip hpos idx image
  have hpixel := State.completePixel_at_stripIndex (s := s.bytePrologue) b hstrip hpos
  have htail := State.frameEndTail_of_last (s.bytePrologue.completePixel b) hlast
  rw [hpixel] at htail
  simp only [List.append_assoc] at htail
  exact congrArg Host.Outcome.next ((congrArg State.frameEndTail hpixel).trans htail)

/-- Settles O21: the tail alone. -/
theorem skipOperations : Obligations.SkipOperations := by
  intro s b
  exact ⟨fun hmore => congrArg Host.Outcome.next (State.frameEndTail_of_more s.bytePrologue hmore),
    fun hlast => congrArg Host.Outcome.next (State.frameEndTail_of_last s.bytePrologue hlast)⟩

/-! ### The frame end -/

/-- Between the own writes of a payload operation on `s` with the byte `b` and its tail: no register that the tail reads
or writes has moved, and the list holds the operation's `Set` at most (R141 to R147). -/
structure State.PayloadBody (b : Byte) (s u : State) : Prop where
  cfg : u.cfg = s.cfg
  mode : u.mode = s.mode
  progress : u.progress = s.progress
  remaining : u.remaining = s.remaining
  shown : u.sink.shown = s.sink.shown
  link : u.link = s.link
  out : u.out = s.out ∨ u.out = s.out ++ [.set s.pixelIndex s.acc.red s.acc.green b]

/-- Each of the six payload operations is its own writes and the tail (R146). -/
theorem exec_payload {i : Instr} {b : Byte} {s t : State}
    (hi : i ∈ [Instr.payR b, .payG b, .payB b, .payBLast b, .paySkip b, .paySkipLast b]) (hx : exec i s = .next t) :
    ∃ u, State.PayloadBody b s u ∧ t = u.frameEndTail := by
  have hstored (acc : Acc) (chan : BitVec 2) : State.PayloadBody b s { s.bytePrologue with acc := acc, chan := chan } :=
    ⟨rfl, rfl, rfl, rfl, rfl, rfl, .inl rfl⟩
  have hpixel : State.PayloadBody b s (s.bytePrologue.completePixel b) :=
    ⟨rfl, rfl, rfl, rfl, s.bytePrologue.completePixel_shown b, rfl, .inr rfl⟩
  have hskip : State.PayloadBody b s s.bytePrologue := ⟨rfl, rfl, rfl, rfl, rfl, rfl, .inl rfl⟩
  simp only [List.mem_cons, List.not_mem_nil, or_false] at hi
  rcases hi with rfl | rfl | rfl | rfl | rfl | rfl
  case inl | inr.inl => cases hx; exact ⟨_, hstored _ _, rfl⟩
  case inr.inr.inl | inr.inr.inr.inl => cases hx; exact ⟨_, hpixel, rfl⟩
  case inr.inr.inr.inr.inl | inr.inr.inr.inr.inr => cases hx; exact ⟨_, hskip, rfl⟩

/-- Settles O16: the tail fires exactly on the last byte, behind the operation's own writes. -/
theorem payloadOperationsEndTheFrame : Obligations.PayloadOperationsEndTheFrame := by
  intro s t b i hi hx
  obtain ⟨u, hu, rfl⟩ := exec_payload hi hx
  refine ⟨?_, ?_⟩
  · rw [State.frameEndTail_remaining, State.countDown_toNat, hu.remaining]
  · split
    case isTrue hlast =>
      rw [State.frameEndTail_of_last u (hu.remaining ▸ hlast), hu.cfg, hu.link]
      exact ⟨rfl, rfl, rfl, ⟨u.out, hu.out, rfl⟩, rfl⟩
    case isFalse hmore =>
      rw [State.frameEndTail_of_more u (hu.remaining ▸ Nat.lt_of_not_le hmore)]
      refine ⟨hu.mode, hu.progress, hu.shown, hu.link, fun hcommit => ?_⟩
      rcases hu.out with hout | hout <;> simpa [hout] using hcommit

/-! ### The step -/

/-- A byte step in PAYLOAD mode runs the operation that `write_pos`, `chan` and `remaining` select (R101, R141 to
R147). -/
theorem State.ByteStep.fetched_of_payload {s : State} {b : Byte} (h : s.ByteStep b) (hmode : s.mode = .payload) :
    s.fetched =
      if s.writePos.toNat < s.cfg.stripLen ∧ s.chan = 0#2 then .payR b
      else if s.writePos.toNat < s.cfg.stripLen ∧ s.chan = 1#2 then .payG b
      else if s.writePos.toNat < s.cfg.stripLen ∧ s.chan = 2#2 then
        if s.remaining.toNat ≤ 1 then .payBLast b else .payB b
      else if s.remaining.toNat ≤ 1 then .paySkipLast b else .paySkip b := by
  rw [State.fetched_eq_selected, h.polled]
  exact State.selected_of_payload (s := s.prepared) hmode b

/-- The tail as one update: it counts down in every state, and on the last byte it ends the frame (R146). -/
theorem State.frameEndTail_eq (s : State) :
    s.frameEndTail =
      if s.remaining.toNat ≤ 1 then
        { s with
          remaining := BitVec.ofNat 18 (s.remaining.toNat - 1)
          mode := .sync
          progress := 0#8
          sink := { s.sink with shown := s.sink.buf }
          link := if s.cfg.flushOnCommit then { s.link with q := [] } else s.link
          out := s.out ++ .commit :: (if s.cfg.flushOnCommit then [.flush] else []) }
      else { s with remaining := BitVec.ofNat 18 (s.remaining.toNat - 1) } := by
  split
  case isTrue hlast => rw [State.frameEndTail_of_last s hlast, Nat.sub_eq_zero_of_le hlast]
  case isFalse hmore =>
    have hdown : s.remaining - 1#18 = BitVec.ofNat 18 (s.remaining.toNat - 1) := by bv_omega
    rw [State.frameEndTail_of_more s (by omega), hdown]

/-- Settles O8: the selection names the operation, and each is its own writes and the tail. -/
theorem byteStepInPayloadMode : Obligations.ByteStepInPayloadMode := by
  intro s b hb hmode last idx p tail pixel
  obtain ⟨-, hstrip, -, -⟩ := (runnable_iff s.cfg).1 hb.runnable
  have hfetched := hb.fetched_of_payload hmode
  have hnext : BitVec.ofNat 17 (s.writePos.toNat + 1) = s.writePos + 1#17 := by simp [BitVec.ofNat_add]
  have htail (u : State) (hcfg : u.cfg = s.cfg) (hrem : u.remaining = s.remaining) :
      u.frameEndTail = tail { u with remaining := BitVec.ofNat 18 (s.remaining.toNat - 1) } := by
    rw [State.frameEndTail_eq, hcfg, hrem]
  -- `htail` is all that the cases below need of the tail.
  clear_value tail
  have hcolour (acc : Acc) (chan : BitVec 2) :
      State.frameEndTail { s.prepared.bytePrologue with acc := acc, chan := chan } =
        tail { p with acc := acc, chan := chan } := htail _ (by simp) (by simp)
  have hskip : s.prepared.bytePrologue.frameEndTail = tail p := htail _ (by simp) (by simp)
  have hpixel (hpos : s.writePos.toNat < s.cfg.stripLen) :
      (s.prepared.bytePrologue.completePixel b).frameEndTail = tail pixel := by
    rw [htail _ (by simp) (by simp), State.completePixel_on_strip s.prepared.bytePrologue b hstrip hpos]
    simp only [pixel, hnext]
    rfl
  rw [step_of_running s hb.runnable hb.running]
  simp only [last]
  split_ifs at hfetched ⊢ with hr hg hblue hlast hlast
  · exact ⟨hfetched, hfetched ▸ congrArg Host.Outcome.next (hcolour _ _)⟩
  · exact ⟨hfetched, hfetched ▸ congrArg Host.Outcome.next (hcolour _ _)⟩
  · exact ⟨hfetched, hfetched ▸ congrArg Host.Outcome.next (hpixel hblue.1)⟩
  · exact ⟨hfetched, hfetched ▸ congrArg Host.Outcome.next (hpixel hblue.1)⟩
  · exact ⟨hfetched, hfetched ▸ congrArg Host.Outcome.next hskip⟩
  · exact ⟨hfetched, hfetched ▸ congrArg Host.Outcome.next hskip⟩

/-- A byte step in PAYLOAD mode runs one of the six operations (R140). -/
theorem State.Selects.payload_mem {s : State} {b : Byte} {i : Instr} (hsel : s.Selects (some b) i)
    (hmode : s.mode = .payload) :
    i ∈ [Instr.payR b, .payG b, .payB b, .payBLast b, .paySkip b, .paySkipLast b] := by
  cases hsel with
  | syncHit hsync | syncMiss hsync | hdrHi hsync | hdrLo hsync | hdrOk hsync | hdrBad hsync => simp [hmode] at hsync
  | payR | payG | payB | payBLast | paySkip | paySkipLast => simp

/-- What a byte step in PAYLOAD mode does whatever the byte is: it counts it, ends the frame on the last byte, and
emits `Commit` there and only there (R140, R146). -/
structure State.CountsByte (s t : State) : Prop where
  remaining : t.remaining.toNat = s.remaining.toNat - 1
  mode : t.mode = if s.remaining.toNat ≤ 1 then .sync else .payload
  progress : s.remaining.toNat ≤ 1 → t.progress = 0#8
  commit : Command.commit ∈ t.out ↔ s.remaining.toNat ≤ 1

theorem State.ByteStep.countsByte {s t : State} {b : Byte} (hb : s.ByteStep b) (hmode : s.mode = .payload)
    (hstep : step s = .next t) : s.CountsByte t := by
  obtain ⟨i, hsel, hx⟩ := hb.selects hstep
  obtain ⟨hrem, hend⟩ := payloadOperationsEndTheFrame s.prepared t b i (hsel.payload_mem hmode) hx
  rw [State.prepared_remaining] at hrem hend
  split at hend
  case isTrue hlast =>
    obtain ⟨htmode, htprog, -, ⟨cs, -, hout⟩, -⟩ := hend
    exact ⟨hrem, by rw [htmode, if_pos hlast], fun _ => htprog, by simp [hout, hlast]⟩
  case isFalse hmore =>
    obtain ⟨htmode, -, -, -, hcommit⟩ := hend
    refine ⟨hrem, by rw [htmode, if_neg hmore]; exact hmode, fun hlast => absurd hlast hmore, ?_⟩
    exact iff_of_false (fun h => by simpa using hcommit h) hmore

/-- Under the invariant the operations of the last byte are PAY.B.LAST and PAY.SKIP.LAST: a red or a green byte has the
rest of its pixel to come (R44, R140). -/
theorem State.Selects.last_iff {s : State} {b : Byte} {i : Instr} (hsel : s.Selects (some b) i) (hinv : s.Inv)
    (hmode : s.mode = .payload) : s.remaining.toNat ≤ 1 ↔ i = .payBLast b ∨ i = .paySkipLast b := by
  obtain ⟨hlow, -, hsum, -⟩ := hinv.counterInStep hmode
  cases hsel with
  | syncHit hsync | syncMiss hsync | hdrHi hsync | hdrLo hsync | hdrOk hsync | hdrBad hsync => simp [hmode] at hsync
  | payR _ hpos hchan | payG _ hpos hchan =>
    have hsum := hsum hpos
    simp only [hchan, BitVec.toNat_ofNat] at hsum
    simp only [reduceCtorEq, or_self, iff_false]
    omega
  | payB _ _ _ hrem | paySkip _ _ hrem => simpa using hrem
  | payBLast _ _ _ hrem | paySkipLast _ _ hrem => simpa using hrem

/-- Settles O39: the byte step counts the byte, and `remaining` is at least 1 before it. -/
theorem frameEndsOnItsLastByte : Obligations.FrameEndsOnItsLastByte := by
  intro s t b hinv hb hmode hstep
  obtain ⟨hlow, -, -, -⟩ := hinv.counterInStep hmode
  have hone : s.remaining = 1#18 ↔ s.remaining.toNat ≤ 1 := by
    rw [← BitVec.toNat_inj, BitVec.toNat_ofNat]
    omega
  have hcounts := hb.countsByte hmode hstep
  have hsel := s.selects_fetched
  rw [hb.polled] at hsel
  rw [hone]
  refine ⟨?_, ?_, hcounts.commit, hsel.last_iff hinv.prepared hmode⟩
  · rw [hcounts.mode]
    split <;> simp [*]
  · rw [← BitVec.toNat_inj, hcounts.remaining, BitVec.toNat_ofNat]
    omega

/-! ### The run -/

/-- The bytes `bs` of a payload are to come before `m` remain; the frame ends with its last byte and not earlier
(R140). -/
structure State.CountsTo (m : Nat) (bs : List Byte) (s : State) : Prop where
  remaining : s.remaining.toNat = m + bs.length
  open_of_pos : 0 < m + bs.length → s.mode = .payload
  scan_of_zero : m + bs.length = 0 → s.mode = .sync ∧ s.progress = 0#8

/-- The poll and the sampling of the time count no byte (R97, R98). -/
theorem State.CountsTo.prepared {m : Nat} {bs : List Byte} {s : State} (h : State.CountsTo m bs s) :
    State.CountsTo m bs s.prepared := { h with }

/-- Nor does an acknowledgment (R162). -/
theorem State.CountsTo.acknowledge {m : Nat} {bs : List Byte} {s : State} (h : State.CountsTo m bs s) :
    State.CountsTo m bs s.acknowledge := { h with }

/-- A run counts its bytes whatever they are, and idle steps count none (R140, R149, R150). -/
theorem consumes_countsTo (m : Nat) : Consumes (State.CountsTo m) where
  byteStep := by
    rintro b bs s t ⟨hrem, hopen, -⟩ hb hstep
    rw [List.length_cons] at hrem hopen
    obtain ⟨htrem, htmode, htprog, -⟩ := hb.countsByte (hopen (by omega)) hstep
    exact ⟨by omega, fun _ => by rw [htmode, if_neg (by omega)],
      fun _ => ⟨by rw [htmode, if_pos (by omega)], htprog (by omega)⟩⟩
  idleStep h hidle hblank hackblank hstep := by
    rcases step_of_quiet hidle hblank hackblank hstep with rfl | rfl
    · exact h.prepared
    · exact h.prepared.acknowledge

/-- A byte to come is not the last of the frame if another one is to come. -/
theorem State.CountsTo.more {m : Nat} {b : Byte} {bs : List Byte} {s : State} (h : State.CountsTo m (b :: bs) s)
    (hmore : bs ≠ []) : 1 < s.remaining.toNat := by
  have hpos := List.length_pos_iff.2 hmore
  rw [h.remaining, List.length_cons]
  omega

/-- Settles O47: the run counts the first `n` bytes of the queue, and the frame ends when none remain. -/
theorem payloadEndsOnlyByCount : Obligations.PayloadEndsOnlyByCount := by
  intro n s hc hmode hn hpos hqueue hrun
  have hlen : (s.link.q.take n).length = n := List.length_take_of_le hqueue
  have hstart : State.CountsTo (s.remaining.toNat - n) (s.link.q.take n) s :=
    ⟨by omega, fun _ => hmode, fun hzero => by omega⟩
  obtain ⟨t, ht, hend⟩ := (consumes_countsTo _).run_of_queue (fun h hmore _ => h.more hmore) hc
    (List.take_append_drop n s.link.q).symm (hlen.symm ▸ hrun) hstart
  rw [hlen] at ht
  refine ⟨t, ht, hend.remaining, ?_⟩
  split
  case isTrue hlt => exact hend.open_of_pos (Nat.sub_pos_of_lt hlt)
  case isFalse hge => exact hend.scan_of_zero (Nat.sub_eq_zero_of_le (Nat.le_of_not_lt hge))

end Sys2Proof.Machine
end

section
/-! PROOFS. A completely delivered frame (spec/41_payload.md R148): the step that each byte of its payload performs, kept
from byte to byte and by idle steps, and the commands that these steps make together. -/

namespace Sys2Proof.Machine

/-! ### The steps of a payload -/

/-- The `Set` of the pixel `c` at the logical position `p` (R68). -/
def pixelSet (cfg : Config) (p : Nat) (c : Colour) : Command :=
  .set (BitVec.ofNat 16 (stripIndex cfg p)) c.1 c.2.1 c.2.2

/-- The commands of a frame end (R146). -/
def frameEnd (cfg : Config) : List Command := .commit :: (if cfg.flushOnCommit then [.flush] else [])

/-- The operation of byte `k` of a payload: by the position of its pixel on or off the strip, and by its place in the
pixel (R140). -/
def payloadOp (cfg : Config) (k : Nat) (last : Bool) (b : Byte) : Instr :=
  if k / 3 < cfg.stripLen then
    if k % 3 = 0 then .payR b
    else if k % 3 = 1 then .payG b
    else if last then .payBLast b else .payB b
  else if last then .paySkipLast b else .paySkip b

/-- The commands of byte `k` of the payload of `ps`: the `Set` of a pixel on the strip that it completes, and the frame
end if it is the last (R148). -/
def payloadCommands (cfg : Config) (ps : List Colour) (k : Nat) (last : Bool) : List Command :=
  (if k / 3 < cfg.stripLen ∧ k % 3 = 2 then (ps[k / 3]?).toList.map (pixelSet cfg (k / 3)) else []) ++
    if last then frameEnd cfg else []

/-- The steps of the bytes to come of the payload of `ps`: how many they are tells which byte comes next. -/
def payloadSteps (cfg : Config) (ps : List Colour) : List Byte → List (Instr × List Command)
  | [] => []
  | b :: bs =>
    (payloadOp cfg (3 * ps.length - (bs.length + 1)) bs.isEmpty b,
      payloadCommands cfg ps (3 * ps.length - (bs.length + 1)) bs.isEmpty) :: payloadSteps cfg ps bs

/-! ### Where the block stands in a payload -/

/-- In the payload of the pixels `ps`, with `bs` to come: on the strip the pending bytes and those to come are the
pixels from the position on, beyond it every pixel of the strip has come. It says nothing of `remaining`, so it also
holds between an operation's own writes and the frame-end tail, and nothing of what the sink held before the frame. -/
structure State.InPayload (cfg : Config) (ps : List Colour) (bs : List Byte) (s : State) : Prop where
  params : s.cfg = cfg
  mode : s.mode = .payload
  chanSlot : s.writePos.toNat < cfg.stripLen → s.chan ≠ 3#2
  toCome : s.writePos.toNat < cfg.stripLen → s.pending ++ bs = payloadBytes (ps.drop s.writePos.toNat)
  beyond : ¬ s.writePos.toNat < cfg.stripLen → bs.length + 3 * cfg.stripLen ≤ 3 * ps.length

/-- Where the block stands with respect to the payload of the pixels `ps`, with `bs` of it to come. -/
inductive State.TakesPayload (cfg : Config) (ps : List Colour) : List Byte → State → Prop where
  /-- Before its last byte. -/
  | before {bs : List Byte} {s : State} (h : State.InPayload cfg ps bs s) (hmore : bs ≠ [])
      (hcount : s.remaining.toNat = bs.length) : State.TakesPayload cfg ps bs s
  /-- After it. -/
  | after {s : State} (hmode : s.mode = .sync) (hprog : s.progress = 0#8) : State.TakesPayload cfg ps [] s

/-- The state an accepted header leaves has the whole payload to come (R125, R129). -/
theorem State.takesPayload_of_accepted {s : State} {ps : List Colour} (hmode : s.mode = .payload)
    (hpos : s.writePos = 0#17) (hchan : s.chan = 0#2) (hrem : s.remaining.toNat = 3 * ps.length) (hps : ps ≠ []) :
    State.TakesPayload s.cfg ps (payloadBytes ps) s := by
  have hlen := length_payloadBytes ps
  have hsome := List.length_pos_iff.2 hps
  refine .before ⟨rfl, hmode, fun _ => by simp [hchan], fun _ => by simp [State.pending, hchan, hpos], fun hoff => ?_⟩
    (List.length_pos_iff.1 (by omega)) (by omega)
  simp only [hpos, BitVec.toNat_ofNat] at hoff
  omega

/-- A payload of which no byte is to come has left the block in scan mode. -/
theorem State.TakesPayload.scan {cfg : Config} {ps : List Colour} {s : State} (h : State.TakesPayload cfg ps [] s) :
    s.mode = .sync ∧ s.progress = 0#8 := by
  cases h with
  | before _ hmore => exact absurd rfl hmore
  | after hmode hprog => exact ⟨hmode, hprog⟩

/-- With a byte to come the block is in the payload. -/
theorem State.TakesPayload.inPayload {cfg : Config} {ps : List Colour} {b : Byte} {bs : List Byte} {s : State}
    (h : State.TakesPayload cfg ps (b :: bs) s) :
    State.InPayload cfg ps (b :: bs) s ∧ s.remaining.toNat = bs.length + 1 := by
  cases h with
  | before h _ hcount => exact ⟨h, hcount⟩

/-- The poll and the sampling of the time keep the place in the payload (R97, R98). -/
theorem State.TakesPayload.prepared {cfg : Config} {ps : List Colour} {bs : List Byte} {s : State}
    (h : State.TakesPayload cfg ps bs s) : State.TakesPayload cfg ps bs s.prepared := by
  cases h with
  | before h hmore hcount => exact .before { h with } hmore hcount
  | after hmode hprog => exact .after hmode hprog

/-- So does an acknowledgment (R162, R149). -/
theorem State.TakesPayload.acknowledge {cfg : Config} {ps : List Colour} {bs : List Byte} {s : State}
    (h : State.TakesPayload cfg ps bs s) : State.TakesPayload cfg ps bs s.acknowledge := by
  cases h with
  | before h hmore hcount => exact .before { h with } hmore hcount
  | after hmode hprog => exact .after hmode hprog

/-! ### The byte steps -/

/-- On the strip the number of bytes to come tells the position and the slot (R44). -/
theorem State.InPayload.place {cfg : Config} {ps : List Colour} {b : Byte} {bs : List Byte} {s : State}
    (h : State.InPayload cfg ps (b :: bs) s) (hpos : s.writePos.toNat < cfg.stripLen) :
    (3 * ps.length - (bs.length + 1)) / 3 = s.writePos.toNat ∧
      (3 * ps.length - (bs.length + 1)) % 3 = s.chan.toNat := by
  have hchan := h.chanSlot hpos
  have hslot : s.chan.toNat < 3 := by bv_omega
  have hlen := congrArg List.length (h.toCome hpos)
  rw [List.length_append, State.length_pending hchan, length_payloadBytes, List.length_drop, List.length_cons] at hlen
  omega

/-- Beyond the strip it tells a position beyond the strip. -/
theorem State.InPayload.place_beyond {cfg : Config} {ps : List Colour} {b : Byte} {bs : List Byte} {s : State}
    (h : State.InPayload cfg ps (b :: bs) s) (hoff : ¬ s.writePos.toNat < cfg.stripLen) :
    ¬ (3 * ps.length - (bs.length + 1)) / 3 < cfg.stripLen := by
  have hlen := h.beyond hoff
  rw [List.length_cons] at hlen
  omega

/-- A stored red or green byte is pending (R141, R142). -/
theorem State.InPayload.store {cfg : Config} {ps : List Colour} {b : Byte} {bs : List Byte} {s : State}
    (h : State.InPayload cfg ps (b :: bs) s) (hpos : s.writePos.toNat < cfg.stripLen) (acc : Acc) {chan : BitVec 2}
    (hchan : chan ≠ 3#2) (hpending : [acc.red, acc.green].take chan.toNat = s.pending ++ [b]) :
    State.InPayload cfg ps bs { s.bytePrologue with acc := acc, chan := chan } where
  params := h.params
  mode := h.mode
  chanSlot _ := hchan
  toCome hw := by
    rw [State.pending, hpending, List.append_assoc]
    exact h.toCome hw
  beyond hoff := absurd hpos hoff

/-- A blue byte completes the pixel at the position, and the pixels after it are to come (R143). -/
theorem State.InPayload.completePixel {cfg : Config} {ps : List Colour} {b : Byte} {bs : List Byte} {s : State}
    (h : State.InPayload cfg ps (b :: bs) s) (hstrip : cfg.stripLen ≤ 65536) (hpos : s.writePos.toNat < cfg.stripLen)
    (hchan : s.chan = 2#2) :
    ps[s.writePos.toNat]? = some (s.acc.red, s.acc.green, b) ∧
      State.InPayload cfg ps bs (s.bytePrologue.completePixel b) := by
  have hcome := h.toCome hpos
  rw [State.pending, hchan] at hcome
  obtain ⟨qs, hqs, hbs⟩ := eq_cons_of_payloadBytes_eq hcome
  obtain ⟨hpixel, hrest⟩ := getElem?_of_cons_eq_drop hqs.symm
  have hnext : (s.bytePrologue.completePixel b).writePos.toNat = s.writePos.toNat + 1 := by
    rw [State.completePixel_writePos, State.bytePrologue_writePos]
    bv_omega
  refine ⟨hpixel, h.params, h.mode, fun _ => by simp, fun _ => ?_, fun hoff => ?_⟩
  · rw [hnext, ← hrest, ← hbs]
    rfl
  · have hlen := congrArg List.length hrest
    rw [List.length_drop] at hlen
    rw [hnext] at hoff
    rw [hbs, length_payloadBytes]
    have hin := (List.getElem?_eq_some_iff.1 hpixel).1
    omega

/-- Beyond the strip a byte is discarded (R145). -/
theorem State.InPayload.skip {cfg : Config} {ps : List Colour} {b : Byte} {bs : List Byte} {s : State}
    (h : State.InPayload cfg ps (b :: bs) s) (hoff : ¬ s.writePos.toNat < cfg.stripLen) :
    State.InPayload cfg ps bs s.bytePrologue where
  params := h.params
  mode := h.mode
  chanSlot := h.chanSlot
  toCome hw := absurd hw hoff
  beyond _ := by
    have hlen := h.beyond hoff
    rw [List.length_cons] at hlen
    omega

/-- The tail counts the byte, or leaves PAYLOAD mode after the last one (R146). -/
theorem State.InPayload.takesPayload_frameEndTail {cfg : Config} {ps : List Colour} {bs : List Byte} {s : State}
    (h : State.InPayload cfg ps bs s) (hcount : s.remaining.toNat = bs.length + 1) :
    State.TakesPayload cfg ps bs s.frameEndTail := by
  by_cases hlast : bs = []
  · subst hlast
    rw [State.frameEndTail_of_last s hcount.le]
    exact .after rfl rfl
  · have hpos := List.length_pos_iff.2 hlast
    rw [State.frameEndTail_of_more s (by omega)]
    refine .before { h with } hlast ?_
    bv_omega

/-- The tail after the own writes of an operation on `s` adds the frame end on the last byte (R146). -/
theorem State.frameEndTail_out_of_body {s u : State} (hcfg : u.cfg = s.cfg) (hrem : u.remaining = s.remaining) :
    u.frameEndTail.out = u.out ++ if s.remaining.toNat ≤ 1 then frameEnd s.cfg else [] := by
  rw [State.frameEndTail_out, hcfg, hrem]
  rfl

/-- In the payload the polled byte performs the step of its place, and the place moves on (R141 to R147). -/
theorem State.Selects.takesPayload {cfg : Config} {ps : List Colour} {b : Byte} {bs : List Byte} {s t : State}
    {i : Instr} (hsel : s.Selects (some b) i) (hc : cfg.runnable = true) (hout : s.out = [])
    (h : State.InPayload cfg ps (b :: bs) s) (hcount : s.remaining.toNat = bs.length + 1) (hx : exec i s = .next t) :
    payloadSteps cfg ps (b :: bs) = (i, t.out) :: payloadSteps cfg ps bs ∧ State.TakesPayload cfg ps bs t := by
  obtain ⟨-, hstrip, -, -⟩ := (runnable_iff cfg).1 hc
  have hlast : bs.isEmpty = decide (s.remaining.toNat ≤ 1) := by
    rw [hcount]
    cases bs <;> simp
  obtain rfl := h.params
  rw [payloadSteps, hlast]
  cases hsel with
  | syncHit hsync | syncMiss hsync | hdrHi hsync | hdrLo hsync | hdrOk hsync | hdrBad hsync => simp [h.mode] at hsync
  | payR _ hpos hchan | payG _ hpos hchan =>
    cases hx
    obtain ⟨hdiv, hmod⟩ := h.place hpos
    refine ⟨?_, (h.store hpos _ (by decide) (by simp [State.pending, hchan])).takesPayload_frameEndTail hcount⟩
    rw [State.frameEndTail_out_of_body (s := s) (by simp) (by simp)]
    simp [payloadOp, payloadCommands, hdiv, hmod, hpos, hchan, hout]
  | payB _ hpos hchan hrem | payBLast _ hpos hchan hrem =>
    cases hx
    obtain ⟨hdiv, hmod⟩ := h.place hpos
    obtain ⟨hpixel, hnext⟩ := h.completePixel hstrip hpos hchan
    refine ⟨?_, hnext.takesPayload_frameEndTail hcount⟩
    rw [State.frameEndTail_out_of_body (s := s) (by simp) (by simp)]
    simp [payloadOp, payloadCommands, hdiv, hmod, hpos, hchan, hout, hrem, hpixel, pixelSet, State.pixelIndex]
  | paySkip _ hpos hrem | paySkipLast _ hpos hrem =>
    cases hx
    have hoff : ¬ s.writePos.toNat < s.cfg.stripLen := fun hw => h.chanSlot hw (hpos hw)
    have hplace := h.place_beyond hoff
    refine ⟨?_, (h.skip hoff).takesPayload_frameEndTail hcount⟩
    rw [State.frameEndTail_out_of_body (s := s) (by simp) (by simp)]
    simp [payloadOp, payloadCommands, hplace, hout, hrem]

/-- The same of a byte step: it performs the first of the steps to come. -/
theorem State.ByteStep.takesPayload {cfg : Config} {ps : List Colour} {b : Byte} {bs : List Byte} {s t : State}
    (hb : s.ByteStep b) (h : State.TakesPayload cfg ps (b :: bs) s) (hstep : step s = .next t) :
    payloadSteps cfg ps (b :: bs) = (s.fetched, t.out) :: payloadSteps cfg ps bs ∧
      State.TakesPayload cfg ps bs t := by
  have hsel := s.selects_fetched
  rw [hb.polled] at hsel
  rw [step_of_running s hb.runnable hb.running] at hstep
  obtain ⟨hin, hcount⟩ := h.prepared.inPayload
  have hc : cfg.runnable = true := hin.params ▸ hb.runnable
  exact hsel.takesPayload hc s.prepared_out hin hcount hstep

/-! ### The commands of a payload -/

/-- The commands of the pixels `qs` from the logical position `p` on: one `Set` for each on the strip (R148). -/
def pixelSets (cfg : Config) (p : Nat) (qs : List Colour) : List Command :=
  (qs.take (cfg.stripLen - p)).mapIdx fun i c => pixelSet cfg (p + i) c

theorem pixelSets_cons (cfg : Config) (p : Nat) (c : Colour) (qs : List Colour) :
    pixelSets cfg p (c :: qs) = (if p < cfg.stripLen then [pixelSet cfg p c] else []) ++ pixelSets cfg (p + 1) qs := by
  by_cases hp : p < cfg.stripLen
  · obtain ⟨m, hm⟩ : ∃ m, cfg.stripLen - p = m + 1 := ⟨cfg.stripLen - p - 1, by omega⟩
    have hm' : cfg.stripLen - (p + 1) = m := by omega
    simp [pixelSets, hm, hm', hp, List.mapIdx_cons, Nat.add_assoc, Nat.add_comm 1]
  · have h0 : cfg.stripLen - p = 0 := by omega
    have h1 : cfg.stripLen - (p + 1) = 0 := by omega
    simp [pixelSets, hp, h0, h1]

/-- The three bytes of a pixel make its `Set`, if it is on the strip, and the frame end if it is the last pixel. -/
theorem commands_payloadSteps_cons (cfg : Config) (pre qs : List Colour) (c : Colour) :
    (payloadSteps cfg (pre ++ c :: qs) (payloadBytes (c :: qs))).flatMap Prod.snd =
      (if pre.length < cfg.stripLen then [pixelSet cfg pre.length c] else []) ++
        ((if qs = [] then frameEnd cfg else []) ++
          (payloadSteps cfg (pre ++ c :: qs) (payloadBytes qs)).flatMap Prod.snd) := by
  have hbytes : payloadBytes (c :: qs) = c.1 :: c.2.1 :: c.2.2 :: payloadBytes qs := rfl
  have hred : ¬ (3 * (pre.length + (qs.length + 1)) - (3 * qs.length + 1 + 1 + 1)) % 3 = 2 := by omega
  have hgreen : ¬ (3 * (pre.length + (qs.length + 1)) - (3 * qs.length + 1 + 1)) % 3 = 2 := by omega
  have hblue : 3 * (pre.length + (qs.length + 1)) - (3 * qs.length + 1) = 3 * pre.length + 2 := by omega
  have hpixel : (3 * pre.length + 2) / 3 = pre.length := by omega
  have hlast : (payloadBytes qs).isEmpty = qs.isEmpty := by cases qs <;> rfl
  simp [hbytes, payloadSteps, payloadCommands, hred, hgreen, hblue, hpixel, hlast]

/-- The last pixels of a payload make their `Set`s in order, and then the frame end (R148). -/
theorem commands_payloadSteps_append (cfg : Config) (pre qs : List Colour) (hqs : qs ≠ []) :
    (payloadSteps cfg (pre ++ qs) (payloadBytes qs)).flatMap Prod.snd =
      pixelSets cfg pre.length qs ++ frameEnd cfg := by
  induction qs generalizing pre with
  | nil => exact absurd rfl hqs
  | cons c qs ih =>
    rw [commands_payloadSteps_cons, pixelSets_cons, List.append_assoc]
    congr 1
    cases qs with
    | nil => simp [payloadBytes, payloadSteps, pixelSets]
    | cons d qs => simpa using ih (pre ++ [c]) (by simp)

/-- The steps of a payload make one `Set` for each pixel on the strip, in order, and then the frame end (R148). -/
theorem commands_payloadSteps (cfg : Config) {ps : List Colour} (hps : ps ≠ []) :
    (payloadSteps cfg ps (payloadBytes ps)).flatMap Prod.snd = pixelSets cfg 0 ps ++ frameEnd cfg :=
  commands_payloadSteps_append cfg [] ps hps

/-- A `Set` is all that a byte before the last can make. -/
theorem commit_notMem_payloadCommands (cfg : Config) (ps : List Colour) (k : Nat) :
    Command.commit ∉ payloadCommands cfg ps k false := by
  simp [payloadCommands, pixelSet]

/-- So the frame end is made by the last byte alone (R148). -/
theorem commit_notMem_payloadSteps_dropLast (cfg : Config) (ps : List Colour) (bs : List Byte) :
    Command.commit ∉ (payloadSteps cfg ps bs).dropLast.flatMap Prod.snd := by
  induction bs with
  | nil => simp [payloadSteps]
  | cons b bs ih =>
    cases bs with
    | nil => simp [payloadSteps]
    | cons b' bs =>
      rw [payloadSteps, List.dropLast_cons_of_ne_nil (by simp [payloadSteps]), List.flatMap_cons, List.mem_append]
      exact not_or.2 ⟨commit_notMem_payloadCommands cfg ps _, ih⟩

/-! ### The run -/

/-- A run keeps the place in the payload: its bytes are consumed in order, and idle steps change nothing of it
(R149). -/
theorem consumes_takesPayload (cfg : Config) (ps : List Colour) : Consumes (State.TakesPayload cfg ps) where
  byteStep h hb hstep := (hb.takesPayload h hstep).2
  idleStep h hidle hblank hackblank hstep := by
    rcases step_of_quiet hidle hblank hackblank hstep with rfl | rfl
    · exact h.prepared
    · exact h.prepared.acknowledge

/-- Settles O50: the run takes the payload byte by byte, and each byte performs its step. -/
theorem deliveredFrameAmongIdleSteps : Obligations.DeliveredFrameAmongIdleSteps := by
  intro s ps n hc hmode _ hpos hchan hrem hlen hquiet hrec
  have hps : ps ≠ [] := List.length_pos_iff.1 (by omega)
  have hstart := State.takesPayload_of_accepted hmode hpos hchan (hlen ▸ hrem) hps
  have hconsumes := consumes_takesPayload s.cfg ps
  have hsteps : s.byteTrace n = payloadSteps s.cfg ps (payloadBytes ps) :=
    hconsumes.byteTrace_of_received rfl (fun h hb hstep => (hb.takesPayload h hstep).1) hc hquiet hrec hstart
  obtain ⟨t, ht, hend⟩ := hconsumes.run_of_received hc hquiet hrec hstart
  rw [hsteps, commands_payloadSteps s.cfg hps]
  refine ⟨hquiet.idleStepsOnlyAcknowledge hc, ?_, commit_notMem_payloadSteps_dropLast _ _ _, t, ht, hend.scan⟩
  simp only [pixelSets, Nat.sub_zero, Nat.zero_add]
  rfl

/-- Bytes at the head of the queue are received without a gap, if no frame ends before the last of them. -/
theorem Consumes.received_of_queue_to_end {P : List Byte → State → Prop} (hP : Consumes P)
    (hmore : ∀ {b bs s}, P (b :: bs) s → bs ≠ [] → s.mode = .payload → 1 < s.remaining.toNat) {bs rest : List Byte}
    {s : State} (hc : s.cfg.runnable = true) (hq : s.link.q = bs ++ rest) (hrun : s.Running bs.length) (h : P bs s) :
    s.received bs.length = bs := by
  induction bs generalizing s rest with
  | nil => rfl
  | cons b bs ih =>
    have hb := byteStep_of_queue hc hq hrun
    obtain ⟨t, ht⟩ := step_answers_of_runnable s hc
    rw [List.length_cons, State.received_succ hb.running ht, hb.polled]
    by_cases hlast : bs = []
    · subst hlast
      rfl
    · obtain ⟨i, hsel, hx⟩ := hb.selects ht
      have hkept := hsel.queue_exec (fun hpay => hmore (s := s) h hlast hpay) hx
      have hq' : t.link.q = bs ++ (rest ++ s.input.arrivals) := by simp [hkept, hq]
      rw [ih (step_cfg ht ▸ hc) hq' (hrun.tail ht) (hP.byteStep h hb ht)]
      rfl

/-- No frame ends before its last byte (R140). -/
theorem State.TakesPayload.more {cfg : Config} {ps : List Colour} {b : Byte} {bs : List Byte} {s : State}
    (h : State.TakesPayload cfg ps (b :: bs) s) (hmore : bs ≠ []) : 1 < s.remaining.toNat := by
  have hpos := List.length_pos_iff.2 hmore
  obtain ⟨-, hcount⟩ := h.inPayload
  omega

/-- Settles O48: without a gap every edge of the payload is a byte step, so its trace is the one of
`deliveredFrameAmongIdleSteps`. -/
theorem deliveredFrameCommands : Obligations.DeliveredFrameCommands := by
  intro s ps rest hc hmode hprog hpos hchan hrem hlen hq hrun
  have hps : ps ≠ [] := List.length_pos_iff.1 (by omega)
  have hbytes := length_payloadBytes ps
  have hrec : s.received (3 * ps.length) = payloadBytes ps := by
    rw [← hbytes] at hrun ⊢
    exact (consumes_takesPayload s.cfg ps).received_of_queue_to_end (fun h hmore _ => h.more hmore) hc hq hrun
      (State.takesPayload_of_accepted hmode hpos hchan (hlen ▸ hrem) hps)
  have hbyte := State.operand_of_mem_trace hc hrun (by rw [hrec, hbytes])
  obtain ⟨-, hcommands, hlast, t, ht, hend⟩ :=
    deliveredFrameAmongIdleSteps s ps _ hc hmode hprog hpos hchan hrem hlen (State.undisturbed_of_bytes hrun hbyte) hrec
  have htrace : s.byteTrace (3 * ps.length) = s.trace (3 * ps.length) := List.filter_eq_self.2 hbyte
  have hbefore : s.trace (3 * ps.length - 1) = (s.trace (3 * ps.length)).dropLast := by
    have htake := List.prefix_iff_eq_take.1 (s.trace_isPrefix (Nat.sub_le (3 * ps.length) 1))
    rw [State.length_trace hc (fun k hk => hrun k (by omega))] at htake
    rw [htake, List.dropLast_eq_take, State.length_trace hc hrun]
  rw [htrace] at hcommands hlast
  rw [State.commands_eq_flatMap_trace, State.commands_eq_flatMap_trace, hbefore]
  exact ⟨t, ht, hend.1, hend.2, hlast, hcommands⟩

end Sys2Proof.Machine
end

section
/-! PROOFS. The watchdog (spec/42_watchdog.md): the time arithmetic of the two stamps, the four operations, the idle
step that runs one of them, and unbroken silence. -/

namespace Sys2Proof.Machine

/-! ### The elapsed time -/

/-- The difference modulo 2^32 gives back what was added (R110, R168). -/
theorem State.elapsed_of_eq_add {s : State} {stamp : Stamp} {d : Nat} (hd : d < 2 ^ 32)
    (h : s.tNow = stamp + BitVec.ofNat 32 d) : s.elapsed stamp = d := by
  rw [State.elapsed, h, BitVec.add_comm, BitVec.add_sub_cancel, BitVec.toNat_ofNat, Nat.mod_eq_of_lt hd]

/-- Settles O55: both conditions compare an elapsed time, which is exact. -/
theorem elapsedTimeSurvivesTheWrap : Obligations.ElapsedTimeSurvivesTheWrap := by
  intro s d hd
  refine ⟨fun hack => ?_, fun hbyte => ?_⟩
  · have helapsed := State.elapsed_of_eq_add hd hack
    exact ⟨helapsed, by rw [State.ackDue_iff, ← State.elapsed, helapsed]⟩
  · have helapsed := State.elapsed_of_eq_add hd hbyte
    exact ⟨helapsed, by rw [State.windowExpired_iff, ← State.elapsed, helapsed]⟩

/-! ### The operations -/

/-- Settles O22: each operation is the acknowledgment, the blanking, both or neither. -/
theorem watchdogOperations : Obligations.WatchdogOperations := by
  intro s blanked
  refine ⟨rfl, rfl, congrArg Host.Outcome.next s.blank_eq, congrArg Host.Outcome.next ?_⟩
  rw [State.blank_eq, State.acknowledge_out, List.append_assoc]
  rfl

/-- What an idle step's operation emits, stamps and sends: an acknowledgment if one is due, then a blanking if one is
due (R160 to R164). -/
theorem State.Selects.exec_idle {s t : State} {i : Instr} (hsel : s.Selects none i) (hx : exec i s = .next t) :
    t.out = s.out ++ ((if s.ackDue then [Command.ack] else []) ++
        if s.blankDue then [Command.clear, Command.commit] else []) ∧
      t.tNow = s.tNow ∧ t.tLastAck = (if s.ackDue then s.tNow else s.tLastAck) ∧
      t.tLastByte = (if s.blankDue then s.tNow else s.tLastByte) ∧
      t.link.sent = s.link.sent ++ (if s.ackDue then s.cfg.ackBytes else []) := by
  cases hsel with
  | wdgIdle hack hblank | wdgBlank hack hblank | wdgAck hack hblank | wdgAckblank hack hblank =>
    cases hx
    simp [hack, hblank]

/-! ### The idle step -/

/-- The two conditions of R160 for the freshly sampled time of a step. -/
theorem State.prepared_ackDue_iff (s : State) :
    s.prepared.ackDue = true ↔ 1000 ≤ (s.input.time - s.tLastAck).toNat :=
  s.prepared.ackDue_iff

theorem State.prepared_blankDue_iff (s : State) :
    s.prepared.blankDue = true ↔
      (s.cfg.timeoutMs ≠ 0#32 ∧ s.cfg.timeoutMs.toNat ≤ (s.input.time - s.tLastByte).toNat) ∧
        (1000 ≤ (s.input.time - s.tLastAck).toNat ∨ s.cfg.wdgNested = false) := by
  rw [State.blankDue_iff, State.windowExpired_iff, State.prepared_ackDue_iff]
  rfl

/-- The next state of an idle step is that of an operation selected without a byte. -/
theorem State.IdleStep.selects {s t : State} (h : s.IdleStep) (hstep : step s = .next t) :
    ∃ i, s.prepared.Selects none i ∧ exec i s.prepared = .next t := by
  rw [step_of_running s h.runnable h.running] at hstep
  exact ⟨_, h.polled ▸ s.selects_fetched, hstep⟩

/-- The operation an idle step runs (R102, R160). -/
theorem State.IdleStep.fetched_eq {s : State} (h : s.IdleStep) :
    s.fetched =
      if 1000 ≤ (s.input.time - s.tLastAck).toNat then
        if s.cfg.timeoutMs ≠ 0#32 ∧ s.cfg.timeoutMs.toNat ≤ (s.input.time - s.tLastByte).toNat then .wdgAckblank
        else .wdgAck
      else if (s.cfg.timeoutMs ≠ 0#32 ∧ s.cfg.timeoutMs.toNat ≤ (s.input.time - s.tLastByte).toNat) ∧
          s.cfg.wdgNested = false then .wdgBlank
      else .wdgIdle := by
  rw [State.fetched_eq_selected, h.polled, State.selected_none]
  simp only [State.prepared_ackDue_iff, State.prepared_blankDue_iff]
  by_cases hack : 1000 ≤ (s.input.time - s.tLastAck).toNat
  · simp only [hack, true_or, and_true, if_true]
  · simp only [hack, false_or, if_false]

/-- Settles O9: the two timers name the operation, and what that writes is known in every state. -/
theorem idleStepRunsWatchdog : Obligations.IdleStepRunsWatchdog := by
  intro s hidle ackDue expired blanked
  have hfetched := hidle.fetched_eq
  obtain ⟨hidleOp, hack, hblank, hackblank⟩ := watchdogOperations s.prepared
  rw [step_of_running s hidle.runnable hidle.running]
  simp only [ackDue, expired]
  split_ifs at hfetched ⊢
  · exact ⟨hfetched, hfetched ▸ hackblank⟩
  · exact ⟨hfetched, hfetched ▸ hack⟩
  · exact ⟨hfetched, hfetched ▸ hblank⟩
  · exact ⟨hfetched, hfetched ▸ hidleOp⟩

/-- A poll that answers none finds the queue empty (R71). -/
theorem State.IdleStep.queue_eq_nil {s : State} (h : s.IdleStep) : s.link.q ++ s.input.arrivals = [] :=
  List.head?_eq_none_iff.1 h.polled

/-- Settles O37: no watchdog operation writes these registers, and an empty queue has no byte to consume. -/
theorem idleStepKeepsTheFrame : Obligations.IdleStepKeepsTheFrame := by
  intro s t hidle hstep
  obtain ⟨i, hsel, hx⟩ := hidle.selects hstep
  have hq := hidle.queue_eq_nil
  have htake := hidle.polled
  cases hsel with
  | wdgIdle | wdgBlank | wdgAck | wdgAckblank =>
    cases hx
    simp [hq, htake]

/-- An idle step acknowledges exactly if the acknowledgment is due (R162, R164). -/
theorem State.IdleStep.ack_mem_iff {s t : State} (h : s.IdleStep) (hstep : step s = .next t) :
    Command.ack ∈ t.out ↔ s.prepared.ackDue = true := by
  obtain ⟨i, hsel, hx⟩ := h.selects hstep
  rw [(hsel.exec_idle hx).1]
  cases s.prepared.ackDue <;> cases s.prepared.blankDue <;> simp

/-- An idle step emits `Clear`, and `Commit`, exactly if the blanking is due (R163, R164). -/
theorem State.IdleStep.blank_mem_iff {s t : State} (h : s.IdleStep) (hstep : step s = .next t) :
    (Command.clear ∈ t.out ↔ s.prepared.blankDue = true) ∧
      (Command.commit ∈ t.out ↔ s.prepared.blankDue = true) := by
  obtain ⟨i, hsel, hx⟩ := h.selects hstep
  rw [(hsel.exec_idle hx).1]
  cases s.prepared.ackDue <;> cases s.prepared.blankDue <;> simp

/-- Settles O52: a byte step acknowledges nothing, an idle step exactly if the acknowledgment is due. -/
theorem acknowledgmentSpacing : Obligations.AcknowledgmentSpacing := by
  intro s t hrun hstep
  obtain ⟨hc, -⟩ := step_cases hstep
  cases hrx : s.rx with
  | some b =>
    obtain ⟨-, -, -, -, hnone, -⟩ := byteStepStamps s t b ⟨hc, hrun, hrx⟩ hstep
    simp [hnone]
  | none =>
    have hidle : s.IdleStep := ⟨hc, hrun, hrx⟩
    have hmem := hidle.ack_mem_iff hstep
    obtain ⟨i, hsel, hx⟩ := hidle.selects hstep
    obtain ⟨-, -, hstamp, -, hsent⟩ := hsel.exec_idle hx
    refine ⟨by simp [hmem, State.prepared_ackDue_iff], fun hack => ?_⟩
    rw [hstamp, hsent, if_pos (hmem.1 hack), if_pos (hmem.1 hack)]
    exact ⟨rfl, rfl⟩

/-- Settles O53: without a timeout the blanking is never due, and the other two operations write none of these. -/
theorem zeroTimeoutNeverBlanks : Obligations.ZeroTimeoutNeverBlanks := by
  intro s t hidle hzero hstep
  have hnever : ¬ s.prepared.blankDue = true := fun hblank =>
    ((State.prepared_blankDue_iff s).1 hblank).1.1 hzero
  obtain ⟨i, hsel, hx⟩ := hidle.selects hstep
  simp only [← State.prepared_ackDue_iff]
  cases hsel with
  | wdgIdle hack | wdgAck hack =>
    cases hx
    simp [hack]
  | wdgBlank _ hblank => exact absurd hblank hnever
  | wdgAckblank _ hblank => exact absurd hblank hnever

/-! ### Silence -/

/-- Unbroken silence: the next `n` edges have no reset and consume no byte (R165). -/
structure State.Silent (s : State) (n : Nat) : Prop where
  runnable : s.cfg.runnable = true
  running : s.Running n
  received : s.received n = []

/-- Silence begins with an idle step and goes on behind it. -/
theorem State.Silent.uncons {s : State} {n : Nat} (h : s.Silent (n + 1)) :
    s.IdleStep ∧ ∃ t, step s = .next t ∧ t.cfg = s.cfg ∧ t.Silent n := by
  obtain ⟨t, ht⟩ := step_answers_of_runnable s h.runnable
  have hcfg := step_cfg ht
  have hreceived := h.received
  rw [State.received_succ h.running.head ht, List.append_eq_nil_iff, Option.toList_eq_nil_iff] at hreceived
  obtain ⟨hpoll, hrest⟩ := hreceived
  exact ⟨⟨h.runnable, h.running.head, hpoll⟩, t, ht, hcfg, hcfg ▸ h.runnable, h.running.tail ht, hrest⟩

/-- An idle step that does not blank leaves the inactivity stamp (R161, R162). -/
theorem State.IdleStep.tLastByte_of_quiet {s t : State} (h : s.IdleStep) (hstep : step s = .next t)
    (hquiet : ¬ s.prepared.blankDue = true) : t.tLastByte = s.tLastByte := by
  obtain ⟨i, hsel, hx⟩ := h.selects hstep
  obtain ⟨-, -, -, hstamp, -⟩ := hsel.exec_idle hx
  rw [hstamp, if_neg hquiet, State.prepared_tLastByte]

/-- Silence shorter than the timeout since the inactivity stamp does not blank (R165). -/
theorem State.Silent.not_blanks {s : State} {n : Nat} (h : s.Silent n)
    (hearly : ∀ k, k < n → ((s.inputAt k).time - s.tLastByte).toNat < s.cfg.timeoutMs.toNat) :
    Command.clear ∉ s.commands n ∧ Command.commit ∉ s.commands n := by
  induction n generalizing s with
  | zero => simp [State.commands]
  | succ n ih =>
    obtain ⟨hidle, t, ht, hcfg, hsilent⟩ := h.uncons
    have hquiet : ¬ s.prepared.blankDue = true := fun hblank =>
      Nat.not_le_of_lt (hearly 0 (Nat.zero_lt_succ n)) ((State.prepared_blankDue_iff s).1 hblank).1.2
    have hstamp := hidle.tLastByte_of_quiet ht hquiet
    obtain ⟨hclear, hcommit⟩ := hidle.blank_mem_iff ht
    obtain ⟨hnoClear, hnoCommit⟩ := ih hsilent fun k hk => by
      rw [step_inputAt ht, hstamp, hcfg]
      exact hearly (k + 1) (Nat.succ_lt_succ hk)
    rw [State.commands_succ ht]
    simp [hclear, hcommit, hquiet, hnoClear, hnoCommit]

/-- Silence that has not blanked leaves the inactivity stamp, acknowledgments or not (R165). -/
theorem State.Silent.tLastByte_of_quiet {s u : State} {n : Nat} (h : s.Silent n)
    (hquiet : Command.clear ∉ s.commands n) (hrun : Host.Core.run Sys2Proof.core n s = .next u) :
    u.tLastByte = s.tLastByte := by
  induction n generalizing s with
  | zero => cases hrun; rfl
  | succ n ih =>
    obtain ⟨hidle, t, ht, -, hsilent⟩ := h.uncons
    rw [State.commands_succ ht, List.mem_append, not_or] at hquiet
    obtain ⟨hfirst, hrest⟩ := hquiet
    rw [(hidle.blank_mem_iff ht).1] at hfirst
    rw [run_succ ht] at hrun
    rw [ih hsilent hrest hrun, hidle.tLastByte_of_quiet ht hfirst]

/-- A blanking restarts the inactivity timer, and with WDG_NESTED both timers: it then comes with an acknowledgment
(R160, R164, R165). -/
theorem State.IdleStep.stamps_of_blanking {s t : State} (h : s.IdleStep) (hstep : step s = .next t)
    (hblank : s.prepared.blankDue = true) :
    t.tLastByte = t.tNow ∧ (s.cfg.wdgNested = true → t.tLastAck = t.tNow) := by
  obtain ⟨i, hsel, hx⟩ := h.selects hstep
  obtain ⟨-, hnow, hack, hbyte, -⟩ := hsel.exec_idle hx
  rw [hnow, hack, hbyte, if_pos hblank]
  refine ⟨rfl, fun hnested => if_pos ?_⟩
  obtain ⟨-, hdue⟩ := s.prepared.blankDue_iff.1 hblank
  exact hdue.resolve_right (by simp [hnested])

/-- Settles O54: the blanking restarts the inactivity stamp, which silence without a blanking keeps, and the condition
for the next blanking is a matter of the stamps. -/
theorem blankingRearms : Obligations.BlankingRearms := by
  intro s t u n hidle hstep hclear hrunning hreceived hrun
  have hblank := (hidle.blank_mem_iff hstep).1.1 hclear
  have hcfg := step_cfg hstep
  obtain ⟨⟨htimeout, -⟩, -⟩ := (State.prepared_blankDue_iff s).1 hblank
  obtain ⟨hbyte, hack⟩ := hidle.stamps_of_blanking hstep hblank
  have hsilent : t.Silent n := ⟨hcfg ▸ hidle.runnable, hrunning, hreceived⟩
  refine ⟨hbyte, hack, fun hearly => hsilent.not_blanks (by rwa [hbyte, hcfg]), fun hquiet v hnext hv => ?_⟩
  have hdue : u.prepared.blankDue = true ↔
      s.cfg.timeoutMs.toNat ≤ (u.input.time - t.tNow).toNat ∧
        (s.cfg.wdgNested = true → 1000 ≤ (u.input.time - u.tLastAck).toNat) := by
    rw [State.prepared_blankDue_iff, hsilent.tLastByte_of_quiet hquiet hrun, hbyte, (run_cfg hrun).trans hcfg]
    cases s.cfg.wdgNested <;> simp [htimeout]
  rw [← hdue]
  exact hnext.blank_mem_iff hv

end Sys2Proof.Machine
end

section
/-! PROOFS. No exceptions (spec/60_exceptions.md R180): every operation answers, and it leaves alone what belongs to the
step and not to the operation. -/

namespace Sys2Proof.Machine

/-- The poll sets `rx_take` before the operation runs, and no operation writes it (R35). -/
theorem exec_rxTake {i : Instr} {s t : State} (hx : exec i s = .next t) : t.rxTake = s.rxTake := by
  cases i with
  | syncHit | syncMiss | hdrHi | hdrLo | hdrOk | hdrBad | payR | payG | payB | payBLast | paySkip | paySkipLast =>
    obtain ⟨-, -, -, htake, -⟩ := exec_stamps rfl hx
    exact htake
  | wdgIdle | wdgBlank | wdgAck | wdgAckblank => cases hx; simp

/-- Settles O12: every arm of the dispatch answers, and the parameters, `t_now`, the inputs to come and `rx_take` are in
no operation's row of writers. -/
theorem everyOperationAnswers : Obligations.EveryOperationAnswers := by
  intro i s
  obtain ⟨t, hx⟩ := exec_answers i s
  obtain ⟨hcfg, hnow, -⟩ := onlyListedWriters i s t hx
  obtain ⟨hscript, hslot⟩ := exec_inputs hx
  exact ⟨t, hx, hcfg, hnow, hscript, hslot, exec_rxTake hx⟩

end Sys2Proof.Machine
end

section
/-! PROOFS. Reset (spec/70_reset_and_hazards.md R210, R211, R213): the reset load gives the Session State of
`Reset(time0)`, and the environment is as the opened edge left it. -/

namespace Sys2Proof.Machine

/-- The reset load is `Reset(time0)` of the same parameters in every register of the Session State; what it takes over
is the sink, the transport, the outputs and the inputs to come (R210, R213). -/
theorem State.loadReset_eq_resetWith (time0 : Stamp) (s : State) :
    s.loadReset time0 =
      { State.resetWith s.cfg time0 with
        sink := s.sink
        link := s.link
        out := s.out
        rxTake := s.rxTake
        script := s.script
        slotNo := s.slotNo } := rfl

/-- Settles O10: a reset edge is the reset load on the opened edge, which has queued the arrivals and cleared the
outputs but polls nothing. -/
theorem resetEdgeLoadsResetState : Obligations.ResetEdgeLoadsResetState := by
  intro s hc hr
  rw [step_of_reset s hc hr, State.loadReset_eq_resetWith]
  simp only [State.opened_cfg, State.opened_sink, State.opened_link, State.opened_out, State.opened_rxTake,
    State.opened_script, State.opened_slotNo, State.resetWith]

end Sys2Proof.Machine
end
